-- ==== Sys2Proof/Word.lean ====
section
/-! DEFINITION. The byte, the one word of this machine (00_scope.md R7, R9): registers, memory bytes, the
pc, FL, operand bytes and addresses are all unsigned 8-bit values. -/

namespace Sys2Proof

/-- An unsigned byte, 0 to 255 (00_scope.md R9). Its `+`, `-` and `*` are the spec's `+8`, `-8` and 8-bit product. -/
abbrev Byte := BitVec 8

/-- `wrap8(n) = n mod 256`, for any integer, with the non-negative modulus (00_scope.md R9). -/
def wrap8 (n : Int) : Byte := BitVec.ofInt 8 n

/-- `zext_N(v)` (00_scope.md R9: defined for completeness, used by no rule). -/
def zext (n : Nat) (v : Byte) : BitVec n := v.setWidth n

/-- `sext_N(v)` (00_scope.md R9: defined for completeness, used by no rule). -/
def sext (n : Nat) (v : Byte) : BitVec n := v.signExtend n

end Sys2Proof
end

