-- ==== Sys2Proof/Syntax.lean ====
section
/-! DEFINITION. The syntax: one constructor per row of spec/opcode_table.json, 37 in all. Operands are the raw
bytes after the opcode: a register operand is a whole byte, and a value of 8 or more is a legal encoding that
raises InvalidRegisterIndex when executed (30_encoding.md R65). -/

namespace Sys2Proof

/-- The four operations of the ALU (40_alu.md R105). -/
inductive AluOp where
  | add | sub | mul | cmp
  deriving DecidableEq, Repr

/-- The instruction set: the 14 instructions (30_encoding.md R67), the 20 ALU aliases (R74) and the three
fault classes (R63, R68, R69), which carry the opcode byte that was fetched. `oa` and `ob` are operand_a and
operand_b (R61). -/
inductive Instr where
  /-- HALT, 0x01 (41_dispatch_basic.md R121). -/
  | halt
  /-- LOAD Ra, imm, 0x82 (41_dispatch_basic.md R122). -/
  | load (oa imm : Byte)
  /-- PRINT Ra, 0x47 (41_dispatch_basic.md R123). -/
  | print (oa : Byte)
  /-- PUSH Ra, 0x45 (42_stack.md R140). -/
  | push (oa : Byte)
  /-- POP Ra, 0x46 (42_stack.md R141). -/
  | pop (oa : Byte)
  /-- CALL Ra, 0x50 (43_control.md R160). -/
  | call (oa : Byte)
  /-- RET, 0x11 (43_control.md R161). -/
  | ret
  /-- JMP Ra, 0x54 (43_control.md R162). -/
  | jmp (oa : Byte)
  /-- JEQ Ra, 0x55 (43_control.md R163). -/
  | jeq (oa : Byte)
  /-- JNE Ra, 0x56 (43_control.md R164). -/
  | jne (oa : Byte)
  /-- ADD Ra, Rb, 0xA0 (40_alu.md R101). -/
  | add (oa ob : Byte)
  /-- SUB Ra, Rb, 0xA1 (40_alu.md R102). -/
  | sub (oa ob : Byte)
  /-- MUL Ra, Rb, 0xA2 (40_alu.md R103). -/
  | mul (oa ob : Byte)
  /-- CMP Ra, Rb, 0xA7 (40_alu.md R104). -/
  | cmp (oa ob : Byte)
  /-- ALU alias 0x20: ADD, advance 1 (30_encoding.md R74). -/
  | addAlias20 (oa ob : Byte)
  /-- ALU alias 0x21: SUB, advance 1 (30_encoding.md R74). -/
  | subAlias21 (oa ob : Byte)
  /-- ALU alias 0x22: MUL, advance 1 (30_encoding.md R74). -/
  | mulAlias22 (oa ob : Byte)
  /-- ALU alias 0x27: CMP, advance 1 (30_encoding.md R74). -/
  | cmpAlias27 (oa ob : Byte)
  /-- ALU alias 0x30: ADD, setpc = 1, so pc does not move (30_encoding.md R74). -/
  | addAlias30 (oa ob : Byte)
  /-- ALU alias 0x31: SUB, setpc = 1, so pc does not move (30_encoding.md R74). -/
  | subAlias31 (oa ob : Byte)
  /-- ALU alias 0x32: MUL, setpc = 1, so pc does not move (30_encoding.md R74). -/
  | mulAlias32 (oa ob : Byte)
  /-- ALU alias 0x37: CMP, setpc = 1, so pc does not move (30_encoding.md R74). -/
  | cmpAlias37 (oa ob : Byte)
  /-- ALU alias 0x60: ADD, advance 2 (30_encoding.md R74). -/
  | addAlias60 (oa ob : Byte)
  /-- ALU alias 0x61: SUB, advance 2 (30_encoding.md R74). -/
  | subAlias61 (oa ob : Byte)
  /-- ALU alias 0x62: MUL, advance 2 (30_encoding.md R74). -/
  | mulAlias62 (oa ob : Byte)
  /-- ALU alias 0x67: CMP, advance 2 (30_encoding.md R74). -/
  | cmpAlias67 (oa ob : Byte)
  /-- ALU alias 0x70: ADD, setpc = 1, so pc does not move (30_encoding.md R74). -/
  | addAlias70 (oa ob : Byte)
  /-- ALU alias 0x71: SUB, setpc = 1, so pc does not move (30_encoding.md R74). -/
  | subAlias71 (oa ob : Byte)
  /-- ALU alias 0x72: MUL, setpc = 1, so pc does not move (30_encoding.md R74). -/
  | mulAlias72 (oa ob : Byte)
  /-- ALU alias 0x77: CMP, setpc = 1, so pc does not move (30_encoding.md R74). -/
  | cmpAlias77 (oa ob : Byte)
  /-- ALU alias 0xB0: ADD, setpc = 1, so pc does not move (30_encoding.md R74). -/
  | addAliasB0 (oa ob : Byte)
  /-- ALU alias 0xB1: SUB, setpc = 1, so pc does not move (30_encoding.md R74). -/
  | subAliasB1 (oa ob : Byte)
  /-- ALU alias 0xB2: MUL, setpc = 1, so pc does not move (30_encoding.md R74). -/
  | mulAliasB2 (oa ob : Byte)
  /-- ALU alias 0xB7: CMP, setpc = 1, so pc does not move (30_encoding.md R74). -/
  | cmpAliasB7 (oa ob : Byte)
  /-- A byte with cnt = 11, 0xC0 to 0xFF: Fatal(UnrecognizedOpcode) (30_encoding.md R63). -/
  | reservedOperandCount (op : Byte)
  /-- An ALU-flagged byte whose identifier is not 0, 1, 2 or 7: Fatal(UnsupportedOperation) (30_encoding.md R68). -/
  | aluUnsupportedIdentifier (op : Byte)
  /-- A byte neither ALU-flagged nor in the dispatch table: Fatal(UnrecognizedOpcode) (30_encoding.md R69). -/
  | unrecognized (op : Byte)
  deriving DecidableEq, Repr

end Sys2Proof
end

