-- ==== Sys2Proof/Machine/Opcodes.lean ====
section
/-! DEFINITION. The opcode byte: its four fields (30_encoding.md R61, R62), the opcode map (R67) and the byte classes
the decoder tests (R63, R68, R69, R73). -/

namespace Sys2Proof

/-- `cnt = op[7:6]`, the operand count (30_encoding.md R62). -/
def opCnt (op : Byte) : BitVec 2 := op.extractLsb' 6 2

/-- `alu = op[5]`, the ALU flag (30_encoding.md R62). -/
def opAlu (op : Byte) : Bool := op.getLsbD 5

/-- `setpc = op[4]`, the PC-setting flag (30_encoding.md R62). -/
def opSetpc (op : Byte) : Bool := op.getLsbD 4

/-- `id = op[3:0]`, the identifier (30_encoding.md R62). -/
def opId (op : Byte) : BitVec 4 := op.extractLsb' 0 4

/-- The length in bytes of the instruction with opcode `op`, and its auto-advance distance: `1 + cnt`
(30_encoding.md R60, R71). -/
def opLength (op : Byte) : Nat := 1 + (opCnt op).toNat

/-! The 14 canonical opcode bytes (30_encoding.md R67; D1, log 1). -/

/-- HALT. -/
def opHalt : Byte := 0x01
/-- LOAD. -/
def opLoad : Byte := 0x82
/-- PRINT. -/
def opPrint : Byte := 0x47
/-- PUSH. -/
def opPush : Byte := 0x45
/-- POP. -/
def opPop : Byte := 0x46
/-- CALL. -/
def opCall : Byte := 0x50
/-- RET. -/
def opRet : Byte := 0x11
/-- JMP. -/
def opJmp : Byte := 0x54
/-- JEQ. -/
def opJeq : Byte := 0x55
/-- JNE. -/
def opJne : Byte := 0x56
/-- ADD. -/
def opAdd : Byte := 0xA0
/-- SUB. -/
def opSub : Byte := 0xA1
/-- MUL. -/
def opMul : Byte := 0xA2
/-- CMP. -/
def opCmp : Byte := 0xA7

/-- The ALU operation an identifier selects: 0 ADD, 1 SUB, 2 MUL, 7 CMP, and no other (30_encoding.md R68; D1, log 1). -/
def aluOpOfId (id : BitVec 4) : Option AluOp :=
  if id = 0 then some .add
  else if id = 1 then some .sub
  else if id = 2 then some .mul
  else if id = 7 then some .cmp
  else none

/-- The keys of the dispatch table: the ten whole opcode bytes of 30_encoding.md R69. -/
def dispatchOpcodes : List Byte :=
  [opHalt, opLoad, opPrint, opPush, opPop, opCall, opRet, opJmp, opJeq, opJne]

/-- Reserved operand count: cnt = 11 (30_encoding.md R63). -/
def isReservedCount (op : Byte) : Bool := opCnt op == 3

/-- ALU-flagged, cnt not 11, with an identifier that selects no operation (30_encoding.md R68). -/
def isUnsupportedAlu (op : Byte) : Bool := !isReservedCount op && opAlu op && (aluOpOfId (opId op)).isNone

/-- Not ALU-flagged, cnt not 11, and not in the dispatch table (30_encoding.md R69). -/
def isUnrecognized (op : Byte) : Bool := !isReservedCount op && !opAlu op && !dispatchOpcodes.contains op

end Sys2Proof
end

