-- ==== Sys2Proof/WellFormed.lean ====
section
/-! DEFINITION. What makes an instruction well-formed. Two separate checks: `wellFormed`, that the term is
one the encoding admits (a fault class holds a byte of its class), and `registersValid`, that every register operand
the instruction names is 0 to 7 (30_encoding.md R65). An instruction that fails the second is encodable and executes,
by raising InvalidRegisterIndex. -/

namespace Sys2Proof

/-- The register operands of each instruction, in the order they are checked (30_encoding.md R65's table). -/
def Instr.registerOperands : Instr → List Byte
  | .halt | .ret => []
  | .load oa _ => [oa]
  | .print oa | .push oa | .pop oa | .call oa | .jmp oa | .jeq oa | .jne oa => [oa]
  | .add oa ob | .sub oa ob | .mul oa ob | .cmp oa ob
  | .addAlias20 oa ob | .subAlias21 oa ob | .mulAlias22 oa ob | .cmpAlias27 oa ob
  | .addAlias30 oa ob | .subAlias31 oa ob | .mulAlias32 oa ob | .cmpAlias37 oa ob
  | .addAlias60 oa ob | .subAlias61 oa ob | .mulAlias62 oa ob | .cmpAlias67 oa ob
  | .addAlias70 oa ob | .subAlias71 oa ob | .mulAlias72 oa ob | .cmpAlias77 oa ob
  | .addAliasB0 oa ob | .subAliasB1 oa ob | .mulAliasB2 oa ob | .cmpAliasB7 oa ob => [oa, ob]
  | .reservedOperandCount _ | .aluUnsupportedIdentifier _ | .unrecognized _ => []

/-- Every register operand the instruction names is 0 to 7 (30_encoding.md R65). -/
def Instr.registersValid (i : Instr) : Bool := i.registerOperands.all (fun r => r.toNat < 8)

/-- The term is one the encoding admits: a fault class holds a byte of that class (30_encoding.md R63, R68, R69, R73);
every operand byte of the other instructions is admitted. -/
def Instr.wellFormed : Instr → Bool
  | .reservedOperandCount op => isReservedCount op
  | .aluUnsupportedIdentifier op => isUnsupportedAlu op
  | .unrecognized op => isUnrecognized op
  | .halt | .ret => true
  | .load _ _ => true
  | .print _ | .push _ | .pop _ | .call _ | .jmp _ | .jeq _ | .jne _ => true
  | .add _ _ | .sub _ _ | .mul _ _ | .cmp _ _
  | .addAlias20 _ _ | .subAlias21 _ _ | .mulAlias22 _ _ | .cmpAlias27 _ _
  | .addAlias30 _ _ | .subAlias31 _ _ | .mulAlias32 _ _ | .cmpAlias37 _ _
  | .addAlias60 _ _ | .subAlias61 _ _ | .mulAlias62 _ _ | .cmpAlias67 _ _
  | .addAlias70 _ _ | .subAlias71 _ _ | .mulAlias72 _ _ | .cmpAlias77 _ _
  | .addAliasB0 _ _ | .subAliasB1 _ _ | .mulAliasB2 _ _ | .cmpAliasB7 _ _ => true

end Sys2Proof
end

