-- ==== Sys2Proof/Decode.lean ====
section
/-! DEFINITION. The decoder, total on any three latched bytes (30_encoding.md R62 to R69), and the encoder. A byte that
is no instruction decodes to the constructor of its fault class, by name. -/

namespace Sys2Proof

/-- A row of the opcode map: an opcode byte and the instruction it makes of operand_a and operand_b. -/
abbrev OpRow := Byte × (Byte → Byte → Instr)

/-- The dispatch table, keyed by the whole opcode byte (30_encoding.md R69; D15, log 15). -/
def dispatchTable : List OpRow :=
  [ (opHalt, fun _ _ => Instr.halt), (opLoad, Instr.load), (opPrint, fun oa _ => Instr.print oa),
    (opPush, fun oa _ => Instr.push oa), (opPop, fun oa _ => Instr.pop oa), (opCall, fun oa _ => Instr.call oa),
    (opRet, fun _ _ => Instr.ret), (opJmp, fun oa _ => Instr.jmp oa), (opJeq, fun oa _ => Instr.jeq oa),
    (opJne, fun oa _ => Instr.jne oa) ]

/-- The canonical ALU opcodes (30_encoding.md R67). -/
def aluCanonical : List OpRow :=
  [ (opAdd, Instr.add), (opSub, Instr.sub), (opMul, Instr.mul), (opCmp, Instr.cmp) ]

/-- The 20 ALU aliases (30_encoding.md R73, R74). -/
def aluAliases : List OpRow :=
  [ (0x20, Instr.addAlias20), (0x21, Instr.subAlias21), (0x22, Instr.mulAlias22), (0x27, Instr.cmpAlias27),
    (0x30, Instr.addAlias30), (0x31, Instr.subAlias31), (0x32, Instr.mulAlias32), (0x37, Instr.cmpAlias37),
    (0x60, Instr.addAlias60), (0x61, Instr.subAlias61), (0x62, Instr.mulAlias62), (0x67, Instr.cmpAlias67),
    (0x70, Instr.addAlias70), (0x71, Instr.subAlias71), (0x72, Instr.mulAlias72), (0x77, Instr.cmpAlias77),
    (0xB0, Instr.addAliasB0), (0xB1, Instr.subAliasB1), (0xB2, Instr.mulAliasB2), (0xB7, Instr.cmpAliasB7) ]

/-- The 24 ALU-flagged bytes whose identifier selects an operation (30_encoding.md R73). -/
def aluTable : List OpRow := aluCanonical ++ aluAliases

/-- The instruction the bytes `op`, `oa`, `ob` at pc, pc + 1 and pc + 2 stand for (30_encoding.md R64), in the order of
the tests of R70: reserved count, then the ALU path, then the dispatch path. -/
def decode (op oa ob : Byte) : Instr :=
  if isReservedCount op then .reservedOperandCount op
  else if opAlu op then
    match aluTable.lookup op with
    | some mk => mk oa ob
    | none => .aluUnsupportedIdentifier op
  else
    match dispatchTable.lookup op with
    | some mk => mk oa ob
    | none => .unrecognized op

/-- The opcode byte of an instruction (30_encoding.md R67, R74). -/
def Instr.opcode : Instr → Byte
  | .halt => opHalt
  | .load _ _ => opLoad
  | .print _ => opPrint
  | .push _ => opPush
  | .pop _ => opPop
  | .call _ => opCall
  | .ret => opRet
  | .jmp _ => opJmp
  | .jeq _ => opJeq
  | .jne _ => opJne
  | .add _ _ => opAdd
  | .sub _ _ => opSub
  | .mul _ _ => opMul
  | .cmp _ _ => opCmp
  | .addAlias20 _ _ => 0x20
  | .subAlias21 _ _ => 0x21
  | .mulAlias22 _ _ => 0x22
  | .cmpAlias27 _ _ => 0x27
  | .addAlias30 _ _ => 0x30
  | .subAlias31 _ _ => 0x31
  | .mulAlias32 _ _ => 0x32
  | .cmpAlias37 _ _ => 0x37
  | .addAlias60 _ _ => 0x60
  | .subAlias61 _ _ => 0x61
  | .mulAlias62 _ _ => 0x62
  | .cmpAlias67 _ _ => 0x67
  | .addAlias70 _ _ => 0x70
  | .subAlias71 _ _ => 0x71
  | .mulAlias72 _ _ => 0x72
  | .cmpAlias77 _ _ => 0x77
  | .addAliasB0 _ _ => 0xB0
  | .subAliasB1 _ _ => 0xB1
  | .mulAliasB2 _ _ => 0xB2
  | .cmpAliasB7 _ _ => 0xB7
  | .reservedOperandCount op | .aluUnsupportedIdentifier op | .unrecognized op => op

/-- The operand bytes an instruction reads after its opcode. For the canonical instructions these are the bytes its
assembly emits (30_encoding.md R75); an ALU alias reads two operand bytes whatever its length (R74).
DESIGN CHOICE: they are part of its encoding, whatever its cnt (log 21). -/
def Instr.operandBytes : Instr → List Byte
  | .halt | .ret => []
  | .load oa imm => [oa, imm]
  | .print oa | .push oa | .pop oa | .call oa | .jmp oa | .jeq oa | .jne oa => [oa]
  | .add oa ob | .sub oa ob | .mul oa ob | .cmp oa ob
  | .addAlias20 oa ob | .subAlias21 oa ob | .mulAlias22 oa ob | .cmpAlias27 oa ob
  | .addAlias30 oa ob | .subAlias31 oa ob | .mulAlias32 oa ob | .cmpAlias37 oa ob
  | .addAlias60 oa ob | .subAlias61 oa ob | .mulAlias62 oa ob | .cmpAlias67 oa ob
  | .addAlias70 oa ob | .subAlias71 oa ob | .mulAlias72 oa ob | .cmpAlias77 oa ob
  | .addAliasB0 oa ob | .subAliasB1 oa ob | .mulAliasB2 oa ob | .cmpAliasB7 oa ob => [oa, ob]
  | .reservedOperandCount _ | .aluUnsupportedIdentifier _ | .unrecognized _ => []

/-- The bytes of an instruction in address order: the opcode, then operand_a, then operand_b (30_encoding.md R61, R75). -/
def encode (i : Instr) : List Byte := i.opcode :: i.operandBytes

/-- Byte `k` of the `nbits` bits of `w`, the first byte the least significant; bits above `nbits` are zero. -/
def tableByte (nbits w k : Nat) : Byte := BitVec.ofNat 8 (w % 2 ^ nbits / 2 ^ (8 * k))

/-- The instruction the decoder reads from a word numbered as spec/opcode_table.json numbers it: bit 0 is the least
significant bit of the opcode byte, operand_a is bits 15..8 and operand_b bits 23..16. The decoder is total, so the
answer is never `none`. -/
def decodeTableWord (nbits w : Nat) : Option Instr :=
  some (decode (tableByte nbits w 0) (tableByte nbits w 1) (tableByte nbits w 2))

end Sys2Proof
end

