-- ==== Sys2Proof/Config.lean ====
section
/-! DEFINITION. What is fixed for the machine (00_scope.md R7), and the host's OPEN parameters
(60_exceptions.md R196). There is no free value here: the spec leaves no result of an instruction open. -/

namespace Sys2Proof.Config

/-- Memory size: 256 bytes, addresses 0 to 255 (00_scope.md R7, 20_memory.md R40). -/
def memSize : Nat := 256

/-- What a memory byte reads as after reset and before any write: 0x00 (20_memory.md R40 "zero-initialized"). -/
def memReset : Byte := 0x00

/-- Reset value of the stack pointer: 0xF4 (10_state.md R21). -/
def spReset : Byte := 0xF4

/-- Reset value of pc, the entry point: 0x00 (10_state.md R23). -/
def pcReset : Byte := 0x00

/-- The process exit statuses the spec leaves OPEN (60_exceptions.md R196, 92_eei_decisions.md D21). Claims name
the parameter, never a number (log 18). -/
structure ExitStatuses where
  usage : Nat
  noFile : Nat
  loadFail : Nat
  fatal : Nat
  deriving DecidableEq, Repr

/-- All the source requires of them: each is non-zero, and EXIT_NOFILE differs from EXIT_USAGE (60_exceptions.md R196). -/
abbrev ExitStatuses.Valid (p : ExitStatuses) : Prop :=
  p.usage ≠ 0 ∧ p.noFile ≠ 0 ∧ p.loadFail ≠ 0 ∧ p.fatal ≠ 0 ∧ p.noFile ≠ p.usage

end Sys2Proof.Config
end

