-- ==== Sys2Proof/Machine/State.lean ====
section
/-! DEFINITION. The state of the block, as 10_state.md lists it, and the state after reset. -/

namespace Sys2Proof.Machine

/-- The run state of the execution loop (10_state.md R27). HALTED and FATAL_ERROR are terminal. -/
inductive RunState where
  | running
  | halted
  | fatalError
  deriving DecidableEq, Repr

/-- The error kinds (60_exceptions.md R180). The core raises the first three; the fourth is the host's loader's. -/
inductive FatalKind where
  | unrecognizedOpcode
  | unsupportedOperation
  | invalidRegisterIndex
  | programLoadFailure
  deriving DecidableEq, Repr

/-- The fatal record (10_state.md R28): the kind and its code, the pc of the faulting opcode, the bytes at pc, pc + 1
and pc + 2, and R0 to R7. -/
structure FatalRecord where
  kind : FatalKind
  code : Nat
  pc : Byte
  byte0 : Byte
  byte1 : Byte
  byte2 : Byte
  regs : Vector Byte 8
  deriving DecidableEq, Repr

/-- Memory as data: the bytes that differ from the reset byte, by strictly rising address (20_memory.md R40; log 19). -/
abbrev Memory := List Host.Cell

/-- The whole state, one record (10_state.md R32). -/
structure State where
  /-- R0 to R7; R7 is the stack pointer (10_state.md R20, R21). -/
  regs : Vector Byte 8
  /-- Program counter: during a step, the address of the instruction's own opcode (10_state.md R23). -/
  pc : Byte
  /-- FL, the flags byte (10_state.md R24). -/
  fl : Byte
  /-- Run state (10_state.md R27). -/
  run : RunState
  /-- The fatal record, held when the run state is FATAL_ERROR (10_state.md R28). -/
  fatal : Option FatalRecord
  /-- The output channel, oldest byte first (10_state.md R29). -/
  out : List Byte
  /-- The 256-byte memory (20_memory.md R40). -/
  mem : Memory
  deriving DecidableEq, Repr

/-- Reasons for which the model's step stops without a next state. There is none, and so no constructor: the spec gives
an outcome to every step, and a fatal error is itself a next state (60_exceptions.md R185; log 20). -/
inductive Fault where
  deriving DecidableEq, Repr

/-- Reasons for which an instruction has no meaning in the model. -/
inductive Refusal where
  /-- An arm of `exec` whose instruction has no meaning yet, by mnemonic. Safe. No arm raises it. -/
  | notModelled (mnemonic : String)
  deriving DecidableEq, Repr

/-- The state after a restart (70_reset_and_hazards.md R210). -/
def State.reset : State where
  regs := #v[0, 0, 0, 0, 0, 0, 0, Config.spReset]
  pc := Config.pcReset
  fl := 0
  run := .running
  fatal := none
  out := []
  mem := []

end Sys2Proof.Machine
end

