-- ==== Sys2Proof/Machine/Ops.lean ====
section
/-! DEFINITION. The named operations over memory, registers, pc, FL, output and run state (00_scope.md R10), the
fetch (30_encoding.md R64), the program-counter sequencer's advance (R71, R72), and the one exception entry, the
fatal error (60_exceptions.md R185). No instruction returns from a fatal error (R187), so no return stands beside it. -/

namespace Sys2Proof.Machine

/-! ## Memory -/

/-- The byte at address `a`; an unlisted address reads as the reset byte (20_memory.md R40). -/
def Memory.readAt : Memory → Nat → Byte
  | [], _ => Config.memReset
  | (k, v) :: m, a => if a = k then v else Memory.readAt m a

/-- Drop every entry of address `a`. -/
def Memory.erase (m : Memory) (a : Nat) : Memory := m.filter (fun c => c.1 ≠ a)

/-- Put an entry before the first entry of a higher address. -/
def Memory.insert : Memory → Nat → Byte → Memory
  | [], a, v => [(a, v)]
  | (k, w) :: m, a, v => if a < k then (a, v) :: (k, w) :: m else (k, w) :: Memory.insert m a v

/-- Store `v` at address `a`, keeping the canonical form: storing the reset byte unlists the address. -/
def Memory.writeAt (m : Memory) (a : Nat) (v : Byte) : Memory :=
  if v = Config.memReset then Memory.erase m a else Memory.insert (Memory.erase m a) a v

/-- No address of `m` is `lo` or lower, addresses rise strictly and stay below the memory size, and no entry holds the
reset byte. -/
def Memory.wfAbove : Option Nat → Memory → Bool
  | _, [] => true
  | lo, (k, v) :: m =>
    (match lo with | none => true | some l => decide (l < k)) && decide (k < Config.memSize) &&
      decide (v ≠ Config.memReset) && Memory.wfAbove (some k) m

/-- The canonical form of memory (log 19). -/
def Memory.wf (m : Memory) : Bool := Memory.wfAbove none m

/-- `MemRead(addr, 1)` (20_memory.md R41). An address is a byte, so every address sum has wrapped (R42). -/
def State.readMem (s : State) (addr : Byte) : Byte := Memory.readAt s.mem addr.toNat

/-- `MemWrite(addr, 1, v)` (20_memory.md R41). -/
def State.writeMem (s : State) (addr v : Byte) : State := { s with mem := Memory.writeAt s.mem addr.toNat v }

/-! ## Registers, pc, FL, output, run state -/

/-- Read `x[i]` (00_scope.md R10). No register is hardwired (10_state.md R20). -/
def State.reg (s : State) (i : Fin 8) : Byte := s.regs[i]

/-- `x[i] <- v` (00_scope.md R10). -/
def State.setReg (s : State) (i : Fin 8) (v : Byte) : State := { s with regs := s.regs.set i v }

/-- The register that is the stack pointer: R7 (10_state.md R21; D2, log 2). -/
abbrev spIndex : Fin 8 := 7

/-- `SP` (00_scope.md R10). -/
def State.sp (s : State) : Byte := s.reg spIndex

/-- `SP <- v`. -/
def State.setSp (s : State) (v : Byte) : State := s.setReg spIndex v

/-- `pc <- target`. -/
def State.setPc (s : State) (target : Byte) : State := { s with pc := target }

/-- `FL <- v`. -/
def State.setFl (s : State) (v : Byte) : State := { s with fl := v }

/-- `emit(v)`: append one byte to the output channel (10_state.md R29). -/
def State.emit (s : State) (v : Byte) : State := { s with out := s.out ++ [v] }

/-- `halt` (00_scope.md R10). -/
def State.halt (s : State) : State := { s with run := .halted }

/-! ## The stack discipline (20_memory.md R52) -/

/-- A push: decrement SP, then store at the new SP a value computed from the state after the decrement
(42_stack.md R140, 43_control.md R160). -/
def State.pushWith (value : State → Byte) (s : State) : State :=
  let s₁ := s.setSp (s.sp - 1)
  s₁.writeMem s₁.sp (value s₁)

/-- The byte a pop reads: the one at SP before the increment (42_stack.md R141, 43_control.md R161). -/
def State.top (s : State) : Byte := s.readMem s.sp

/-- The increment of SP that ends a pop; it reads SP after the pop's own register write (42_stack.md R141). -/
def State.incSp (s : State) : State := s.setSp (s.sp + 1)

/-! ## The sequencer -/

/-- The instruction at pc: the opcode and the two bytes after it, latched before anything else (30_encoding.md R64). -/
def State.fetch (s : State) : Instr := decode (s.readMem s.pc) (s.readMem (s.pc + 1)) (s.readMem (s.pc + 2))

/-- The address after the instruction with opcode `op` at pc: `pc + 1 + cnt` (30_encoding.md R71). -/
def State.nextPc (s : State) (op : Byte) : Byte := s.pc + BitVec.ofNat 8 (opLength op)

/-- The loop's advance after a routine: `pc + 1 + cnt`, or nothing when the opcode byte's `setpc` is 1
(30_encoding.md R71, R72). -/
def State.autoAdvance (s : State) (op : Byte) : State := if opSetpc op then s else s.setPc (s.nextPc op)

/-! ## The fatal error -/

/-- The numeric code of an error kind (60_exceptions.md R180; D7, log 7). -/
def FatalKind.code : FatalKind → Nat
  | .unrecognizedOpcode => 1
  | .unsupportedOperation => 2
  | .invalidRegisterIndex => 3
  | .programLoadFailure => 4

/-- The fatal record of an error of kind `k` in state `s` (10_state.md R28). -/
def State.fatalRecord (s : State) (k : FatalKind) : FatalRecord where
  kind := k
  code := k.code
  pc := s.pc
  byte0 := s.readMem s.pc
  byte1 := s.readMem (s.pc + 1)
  byte2 := s.readMem (s.pc + 2)
  regs := s.regs

/-- `raise Fatal(kind)`: the run state becomes FATAL_ERROR, the record is written, and nothing else changes
(60_exceptions.md R185). The one exception entry of the machine. -/
def State.raiseFatal (s : State) (k : FatalKind) : State :=
  { s with run := .fatalError, fatal := some (s.fatalRecord k) }

end Sys2Proof.Machine
end

