-- ==== Sys2Proof/Machine/Flags.lean ====
section
/-! DEFINITION. FL: the flag values a comparison writes and the one flag an instruction reads (10_state.md R24,
40_alu.md R104; the bit places are D3, log 3). -/

namespace Sys2Proof.Machine

/-- FL with only Equal set: bit 0. -/
def flEqual : Byte := 0b00000001

/-- FL with only Greater-than set: bit 1. -/
def flGreater : Byte := 0b00000010

/-- FL with only Less-than set: bit 2. -/
def flLess : Byte := 0b00000100

/-- The whole FL byte a comparison of `va` with `vb` writes; the order is unsigned (40_alu.md R104). -/
def compareFlags (va vb : Byte) : Byte :=
  if va = vb then flEqual else if va < vb then flLess else flGreater

/-- The flag E, `FL[0]`. -/
def State.flagE (s : State) : Bool := s.fl.getLsbD 0

/-- The flag G, `FL[1]`; no instruction reads it (10_state.md R25). -/
def State.flagG (s : State) : Bool := s.fl.getLsbD 1

/-- The flag L, `FL[2]`; no instruction reads it (10_state.md R25). -/
def State.flagL (s : State) : Bool := s.fl.getLsbD 2

end Sys2Proof.Machine
end

