-- ==== Sys2Proof/Machine/Operands.lean ====
section
/-! DEFINITION. The operand forms (30_encoding.md R65, R66). A register operand is checked here; the one
immediate, operand_b of LOAD, is the raw byte and needs no operation. -/

namespace Sys2Proof.Machine

open Host (Outcome)

/-- The register a register operand byte selects: values 0 to 7 select R0 to R7, no bits masked off
(30_encoding.md R65). -/
def regIndex (r : Byte) : Option (Fin 8) := if h : r.toNat < 8 then some ⟨r.toNat, h⟩ else none

/-- Check a register operand and go on with the register it selects; a value of 8 or more raises
InvalidRegisterIndex (30_encoding.md R65, 60_exceptions.md R183). -/
def withReg (r : Byte) (s : State) (k : Fin 8 → Outcome State Fault Refusal) : Outcome State Fault Refusal :=
  match regIndex r with
  | some i => k i
  | none => .next (s.raiseFatal .invalidRegisterIndex)

end Sys2Proof.Machine
end

