-- ==== Sys2Proof/Machine/Alu.lean ====
section
/-! DEFINITION. The ALU: the routine `ALU(id, oa, ob)` (40_alu.md R100 to R104) and one meaning for each ALU-flagged
opcode with a supported identifier, canonical or alias (30_encoding.md R68, R74). -/

namespace Sys2Proof.Machine

open Host (Outcome)

/-- The 8-bit results of ADD, SUB and MUL (40_alu.md R106); CMP writes no register (R104). -/
def aluResult : AluOp → Byte → Byte → Option Byte
  | .add, va, vb => some (va + vb)
  | .sub, va, vb => some (va - vb)
  | .mul, va, vb => some (va * vb)
  | .cmp, _, _ => none

/-- The routine `ALU(id, oa, ob)`: both sources are read before anything is written; ADD, SUB and MUL write only
`x[oa]`, CMP writes only FL (40_alu.md R100). -/
def aluRoutine (o : AluOp) (a b : Fin 8) (s : State) : State :=
  match aluResult o (s.reg a) (s.reg b) with
  | some v => s.setReg a v
  | none => s.setFl (compareFlags (s.reg a) (s.reg b))

/-- One ALU step of opcode `op`: check `oa`, then `ob` (30_encoding.md R65), run the routine, and advance by the
opcode byte's own `cnt` unless its `setpc` is set (R70, R71, R72). -/
def aluStep (o : AluOp) (op oa ob : Byte) (s : State) : Outcome State Fault Refusal :=
  withReg oa s fun a => withReg ob s fun b => .next ((aluRoutine o a b s).autoAdvance op)

/-- ADD (40_alu.md R101). -/
def execAdd (oa ob : Byte) (s : State) : Outcome State Fault Refusal := aluStep .add opAdd oa ob s
/-- SUB (40_alu.md R102). -/
def execSub (oa ob : Byte) (s : State) : Outcome State Fault Refusal := aluStep .sub opSub oa ob s
/-- MUL (40_alu.md R103). -/
def execMul (oa ob : Byte) (s : State) : Outcome State Fault Refusal := aluStep .mul opMul oa ob s
/-- CMP (40_alu.md R104). -/
def execCmp (oa ob : Byte) (s : State) : Outcome State Fault Refusal := aluStep .cmp opCmp oa ob s

/-! The ALU aliases (30_encoding.md R74). -/

/-- ALU alias 0x20, ADD. -/
def execAddAlias20 (oa ob : Byte) (s : State) : Outcome State Fault Refusal := aluStep .add 0x20 oa ob s
/-- ALU alias 0x21, SUB. -/
def execSubAlias21 (oa ob : Byte) (s : State) : Outcome State Fault Refusal := aluStep .sub 0x21 oa ob s
/-- ALU alias 0x22, MUL. -/
def execMulAlias22 (oa ob : Byte) (s : State) : Outcome State Fault Refusal := aluStep .mul 0x22 oa ob s
/-- ALU alias 0x27, CMP. -/
def execCmpAlias27 (oa ob : Byte) (s : State) : Outcome State Fault Refusal := aluStep .cmp 0x27 oa ob s
/-- ALU alias 0x30, ADD. -/
def execAddAlias30 (oa ob : Byte) (s : State) : Outcome State Fault Refusal := aluStep .add 0x30 oa ob s
/-- ALU alias 0x31, SUB. -/
def execSubAlias31 (oa ob : Byte) (s : State) : Outcome State Fault Refusal := aluStep .sub 0x31 oa ob s
/-- ALU alias 0x32, MUL. -/
def execMulAlias32 (oa ob : Byte) (s : State) : Outcome State Fault Refusal := aluStep .mul 0x32 oa ob s
/-- ALU alias 0x37, CMP. -/
def execCmpAlias37 (oa ob : Byte) (s : State) : Outcome State Fault Refusal := aluStep .cmp 0x37 oa ob s
/-- ALU alias 0x60, ADD. -/
def execAddAlias60 (oa ob : Byte) (s : State) : Outcome State Fault Refusal := aluStep .add 0x60 oa ob s
/-- ALU alias 0x61, SUB. -/
def execSubAlias61 (oa ob : Byte) (s : State) : Outcome State Fault Refusal := aluStep .sub 0x61 oa ob s
/-- ALU alias 0x62, MUL. -/
def execMulAlias62 (oa ob : Byte) (s : State) : Outcome State Fault Refusal := aluStep .mul 0x62 oa ob s
/-- ALU alias 0x67, CMP. -/
def execCmpAlias67 (oa ob : Byte) (s : State) : Outcome State Fault Refusal := aluStep .cmp 0x67 oa ob s
/-- ALU alias 0x70, ADD. -/
def execAddAlias70 (oa ob : Byte) (s : State) : Outcome State Fault Refusal := aluStep .add 0x70 oa ob s
/-- ALU alias 0x71, SUB. -/
def execSubAlias71 (oa ob : Byte) (s : State) : Outcome State Fault Refusal := aluStep .sub 0x71 oa ob s
/-- ALU alias 0x72, MUL. -/
def execMulAlias72 (oa ob : Byte) (s : State) : Outcome State Fault Refusal := aluStep .mul 0x72 oa ob s
/-- ALU alias 0x77, CMP. -/
def execCmpAlias77 (oa ob : Byte) (s : State) : Outcome State Fault Refusal := aluStep .cmp 0x77 oa ob s
/-- ALU alias 0xB0, ADD. -/
def execAddAliasB0 (oa ob : Byte) (s : State) : Outcome State Fault Refusal := aluStep .add 0xB0 oa ob s
/-- ALU alias 0xB1, SUB. -/
def execSubAliasB1 (oa ob : Byte) (s : State) : Outcome State Fault Refusal := aluStep .sub 0xB1 oa ob s
/-- ALU alias 0xB2, MUL. -/
def execMulAliasB2 (oa ob : Byte) (s : State) : Outcome State Fault Refusal := aluStep .mul 0xB2 oa ob s
/-- ALU alias 0xB7, CMP. -/
def execCmpAliasB7 (oa ob : Byte) (s : State) : Outcome State Fault Refusal := aluStep .cmp 0xB7 oa ob s

end Sys2Proof.Machine
end

