-- ==== Sys2Proof/Machine/Basic.lean ====
section
/-! DEFINITION. HALT, LOAD and PRINT (41_dispatch_basic.md). -/

namespace Sys2Proof.Machine

open Host (Outcome)

/-- HALT (41_dispatch_basic.md R121): HALTED, then the auto-advance (D8, log 8). -/
def execHalt (s : State) : Outcome State Fault Refusal := .next (s.halt.autoAdvance opHalt)

/-- LOAD (41_dispatch_basic.md R122): `x[oa] <- ob`. -/
def execLoad (oa imm : Byte) (s : State) : Outcome State Fault Refusal :=
  withReg oa s fun a => .next ((s.setReg a imm).autoAdvance opLoad)

/-- PRINT (41_dispatch_basic.md R123): `emit(x[oa])`. -/
def execPrint (oa : Byte) (s : State) : Outcome State Fault Refusal :=
  withReg oa s fun a => .next ((s.emit (s.reg a)).autoAdvance opPrint)

end Sys2Proof.Machine
end

