-- ==== Sys2Proof/Machine/Control.lean ====
section
/-! DEFINITION. CALL, RET, JMP, JEQ and JNE (43_control.md). Each routine writes pc on every path; the loop's advance
after it does nothing, since all five opcodes have setpc = 1 (30_encoding.md R72). -/

namespace Sys2Proof.Machine

open Host (Outcome)

/-- CALL (43_control.md R160): push `pc + 2`, then jump to `x[oa]`, read after the decrement of SP. -/
def execCall (oa : Byte) (s : State) : Outcome State Fault Refusal :=
  withReg oa s fun a =>
    let s₁ := s.pushWith fun s₀ => s₀.pc + 2
    .next ((s₁.setPc (s₁.reg a)).autoAdvance opCall)

/-- RET (43_control.md R161): `pc <- MemRead(SP, 1)`, then increment SP. -/
def execRet (s : State) : Outcome State Fault Refusal := .next ((s.setPc s.top).incSp.autoAdvance opRet)

/-- JMP (43_control.md R162): `pc <- x[oa]`. -/
def execJmp (oa : Byte) (s : State) : Outcome State Fault Refusal :=
  withReg oa s fun a => .next ((s.setPc (s.reg a)).autoAdvance opJmp)

/-- The routine of JEQ and JNE with opcode `op`: jump to `x[a]` when taken, otherwise advance by `1 + cnt`
(43_control.md R163, R164). -/
def branchIf (taken : Bool) (op : Byte) (a : Fin 8) (s : State) : State :=
  if taken then s.setPc (s.reg a) else s.setPc (s.nextPc op)

/-- JEQ (43_control.md R163): jump if E is set. `oa` is checked whether or not the jump is taken (D5, log 5). -/
def execJeq (oa : Byte) (s : State) : Outcome State Fault Refusal :=
  withReg oa s fun a => .next ((branchIf s.flagE opJeq a s).autoAdvance opJeq)

/-- JNE (43_control.md R164): jump if E is clear. `oa` is checked whether or not the jump is taken (D5, log 5). -/
def execJne (oa : Byte) (s : State) : Outcome State Fault Refusal :=
  withReg oa s fun a => .next ((branchIf (!s.flagE) opJne a s).autoAdvance opJne)

end Sys2Proof.Machine
end

