-- ==== Sys2Proof/Machine/FatalClasses.lean ====
section
/-! DEFINITION. The three fault classes of the opcode table: executing one is the fatal-error entry
(60_exceptions.md R181, R182, R185). -/

namespace Sys2Proof.Machine

open Host (Outcome)

/-- A byte with cnt = 11 (30_encoding.md R63; D6, log 6). -/
def execReservedOperandCount (_op : Byte) (s : State) : Outcome State Fault Refusal :=
  .next (s.raiseFatal .unrecognizedOpcode)

/-- An ALU-flagged byte with an unsupported identifier (30_encoding.md R68). -/
def execAluUnsupportedIdentifier (_op : Byte) (s : State) : Outcome State Fault Refusal :=
  .next (s.raiseFatal .unsupportedOperation)

/-- A byte neither ALU-flagged nor in the dispatch table (30_encoding.md R69). -/
def execUnrecognized (_op : Byte) (s : State) : Outcome State Fault Refusal :=
  .next (s.raiseFatal .unrecognizedOpcode)

end Sys2Proof.Machine
end

