-- ==== Sys2Proof/Machine/Stack.lean ====
section
/-! DEFINITION. PUSH and POP (42_stack.md). -/

namespace Sys2Proof.Machine

open Host (Outcome)

/-- PUSH (42_stack.md R140): decrement SP, then write `x[oa]`, read after the decrement, at the new SP. -/
def execPush (oa : Byte) (s : State) : Outcome State Fault Refusal :=
  withReg oa s fun a => .next ((s.pushWith fun s₁ => s₁.reg a).autoAdvance opPush)

/-- POP (42_stack.md R141): `x[oa] <- MemRead(SP, 1)`, then increment SP as it stands after that write. -/
def execPop (oa : Byte) (s : State) : Outcome State Fault Refusal :=
  withReg oa s fun a => .next ((s.setReg a s.top).incSp.autoAdvance opPop)

end Sys2Proof.Machine
end

