-- ==== Sys2Proof/Machine/Dispatch.lean ====
section
/-! DEFINITION. The dispatch of an instruction to its meaning: one arm per constructor of Instr. -/

namespace Sys2Proof.Machine

def exec (i : Instr) (s : State) : Host.Outcome State Fault Refusal :=
  match i with
  | .halt => Sys2Proof.Machine.execHalt s
  | .load oa imm => Sys2Proof.Machine.execLoad oa imm s
  | .print oa => Sys2Proof.Machine.execPrint oa s
  | .push oa => Sys2Proof.Machine.execPush oa s
  | .pop oa => Sys2Proof.Machine.execPop oa s
  | .call oa => Sys2Proof.Machine.execCall oa s
  | .ret => Sys2Proof.Machine.execRet s
  | .jmp oa => Sys2Proof.Machine.execJmp oa s
  | .jeq oa => Sys2Proof.Machine.execJeq oa s
  | .jne oa => Sys2Proof.Machine.execJne oa s
  | .add oa ob => Sys2Proof.Machine.execAdd oa ob s
  | .sub oa ob => Sys2Proof.Machine.execSub oa ob s
  | .mul oa ob => Sys2Proof.Machine.execMul oa ob s
  | .cmp oa ob => Sys2Proof.Machine.execCmp oa ob s
  | .addAlias20 oa ob => Sys2Proof.Machine.execAddAlias20 oa ob s
  | .subAlias21 oa ob => Sys2Proof.Machine.execSubAlias21 oa ob s
  | .mulAlias22 oa ob => Sys2Proof.Machine.execMulAlias22 oa ob s
  | .cmpAlias27 oa ob => Sys2Proof.Machine.execCmpAlias27 oa ob s
  | .addAlias30 oa ob => Sys2Proof.Machine.execAddAlias30 oa ob s
  | .subAlias31 oa ob => Sys2Proof.Machine.execSubAlias31 oa ob s
  | .mulAlias32 oa ob => Sys2Proof.Machine.execMulAlias32 oa ob s
  | .cmpAlias37 oa ob => Sys2Proof.Machine.execCmpAlias37 oa ob s
  | .addAlias60 oa ob => Sys2Proof.Machine.execAddAlias60 oa ob s
  | .subAlias61 oa ob => Sys2Proof.Machine.execSubAlias61 oa ob s
  | .mulAlias62 oa ob => Sys2Proof.Machine.execMulAlias62 oa ob s
  | .cmpAlias67 oa ob => Sys2Proof.Machine.execCmpAlias67 oa ob s
  | .addAlias70 oa ob => Sys2Proof.Machine.execAddAlias70 oa ob s
  | .subAlias71 oa ob => Sys2Proof.Machine.execSubAlias71 oa ob s
  | .mulAlias72 oa ob => Sys2Proof.Machine.execMulAlias72 oa ob s
  | .cmpAlias77 oa ob => Sys2Proof.Machine.execCmpAlias77 oa ob s
  | .addAliasB0 oa ob => Sys2Proof.Machine.execAddAliasB0 oa ob s
  | .subAliasB1 oa ob => Sys2Proof.Machine.execSubAliasB1 oa ob s
  | .mulAliasB2 oa ob => Sys2Proof.Machine.execMulAliasB2 oa ob s
  | .cmpAliasB7 oa ob => Sys2Proof.Machine.execCmpAliasB7 oa ob s
  | .reservedOperandCount op => Sys2Proof.Machine.execReservedOperandCount op s
  | .aluUnsupportedIdentifier op => Sys2Proof.Machine.execAluUnsupportedIdentifier op s
  | .unrecognized op => Sys2Proof.Machine.execUnrecognized op s

end Sys2Proof.Machine
end

