-- ==== Sys2Proof/Machine/Step.lean ====
section
/-! DEFINITION. One step of the execution loop (30_encoding.md R70). -/

namespace Sys2Proof.Machine

/-- One step: while RUNNING, fetch, decode and execute one instruction, atomically (30_encoding.md R70). In HALTED and
FATAL_ERROR the `step` request does nothing (60_exceptions.md R195; log 13). -/
def step (s : State) : Host.Outcome State Fault Refusal :=
  match s.run with
  | .running => exec s.fetch s
  | .halted | .fatalError => .next s

/-- `s` with the instruction of table word `w` at pc, pc + 1 and pc + 2, where the next fetch reads it, and RUNNING, so
that the next step runs it. It stands for the host's load of a program (70_reset_and_hazards.md R212; log 22). -/
def State.withFetchWord (s : State) (nbits w : Nat) : State :=
  let placed := ((s.writeMem s.pc (tableByte nbits w 0)).writeMem (s.pc + 1) (tableByte nbits w 1)).writeMem
    (s.pc + 2) (tableByte nbits w 2)
  { placed with run := .running, fatal := none }

end Sys2Proof.Machine
end

