-- ==== Sys2Proof/Machine/Text.lean ====
section
/-! DEFINITION. Reading characters: white space, digits and numbers, for the program image (30_encoding.md R77) and the
assembler (R75). Text is a list of characters. -/

namespace Sys2Proof.Machine

/-- White space: blank, tab, line feed, vertical tab, form feed, carriage return (DESIGN CHOICE, log 17). -/
def isBlank (c : Char) : Bool := c = ' ' || (9 ≤ c.toNat && c.toNat ≤ 13)

/-- Text without its surrounding white space. -/
def trimBlanks (t : List Char) : List Char := ((t.dropWhile isBlank).reverse.dropWhile isBlank).reverse

/-- The value of a digit, decimal or hexadecimal in either case. -/
def digitValue (c : Char) : Option Nat :=
  if '0' ≤ c ∧ c ≤ '9' then some (c.toNat - '0'.toNat)
  else if 'a' ≤ c ∧ c ≤ 'f' then some (c.toNat - 'a'.toNat + 10)
  else if 'A' ≤ c ∧ c ≤ 'F' then some (c.toNat - 'A'.toNat + 10)
  else none

/-- The number that digits spell in a base, continuing from `acc`; `none` at a character that is no digit of the base. -/
def parseDigits (base acc : Nat) : List Char → Option Nat
  | [] => some acc
  | c :: cs =>
    match digitValue c with
    | some d => if d < base then parseDigits base (acc * base + d) cs else none
    | none => none

end Sys2Proof.Machine
end

