-- ==== Sys2Proof/Machine/HostPort.lean ====
section
/-! DEFINITION. The interface of the block (60_exceptions.md R195 to R197): the ports, what the host may do and when,
the program image and the boot (30_encoding.md R77, 70_reset_and_hazards.md R210 to R213), and the exit status. -/

namespace Sys2Proof.Machine

/-! ## Ports (60_exceptions.md R195) -/

/-- Port `restart`: the whole machine to its reset state, whatever it held (70_reset_and_hazards.md R211). -/
def restart (_s : State) : State := .reset

/-- Port `load(addr, byte)`: `MemWrite(addr, 1, byte)` by the host. `Session.apply` says when it is allowed. -/
def hostLoad (addr v : Byte) (s : State) : State := s.writeMem addr v

/-- Port `step`: the state after one step. Every step answers a next state, so the other arms are never taken. -/
def stepPort (s : State) : State :=
  match step s with
  | .next t => t
  | .fault _ | .refused _ => s

/-- What a bounded `run` reports: the end state of the run (70_reset_and_hazards.md R217), or the state reached when the
bound ran out, never a terminal state (93_implementation_defined.md I13). -/
inductive RunResult where
  | ended (s : State)
  | notFinished (s : State)
  deriving DecidableEq, Repr

/-- Port `run`, bounded: repeat `step` while RUNNING, at most `n` times. DESIGN CHOICE: the bound (log 11). -/
def runPort : Nat → State → RunResult
  | n, s =>
    match s.run with
    | .halted | .fatalError => .ended s
    | .running =>
      match n with
      | 0 => .notFinished s
      | n + 1 => runPort n (stepPort s)

/-- Ports `out_valid` and `out_data`: the output events of a step from `s` to `t`, at most one. -/
def outEvents (s t : State) : List Byte := t.out.drop s.out.length

/-- The host's rendering of the output channel: each value in unsigned decimal (60_exceptions.md R191; log 12). -/
def renderOutput (out : List Byte) : List String := out.map fun v => toString v.toNat

/-! ## What the host may do, and when (60_exceptions.md R195, R197) -/

/-- The host's moves. -/
inductive HostEvent where
  | restart
  | load (addr v : Byte)
  | step
  | run (bound : Nat)
  deriving DecidableEq, Repr

/-- The block together with whether a step has been requested since the last restart: the phase that `load` depends on. -/
structure Session where
  block : State
  started : Bool
  deriving DecidableEq, Repr

/-- The session right after a restart. -/
def Session.initial : Session where
  block := .reset
  started := false

/-- One move of the host, or `none` where it has no such move: `load` is allowed only after a restart and before the
first step (60_exceptions.md R195). DESIGN CHOICE: a run request ends that phase even at bound 0, where no step is taken
(log 11). -/
def Session.apply (e : HostEvent) (x : Session) : Option Session :=
  match e with
  | .restart => some { block := Machine.restart x.block, started := false }
  | .load addr v => if x.started then none else some { x with block := hostLoad addr v x.block }
  | .step => some { block := stepPort x.block, started := true }
  | .run bound =>
    match runPort bound x.block with
    | .ended t | .notFinished t => some { block := t, started := true }

/-! ## The program image (30_encoding.md R77; D20, log 17) -/

/-- What one line of the image holds. -/
inductive ImageLine where
  | skipped
  | value (v : Byte)
  | malformed
  deriving DecidableEq, Repr

/-- The value a line holds, if it holds one. -/
def ImageLine.byte : ImageLine → Option Byte
  | .value v => some v
  | .skipped | .malformed => none

/-- Read one line: strip the comment and the surrounding white space; an empty rest is skipped, and any other must be
binary digits of a value at most 255 (30_encoding.md R77). -/
def parseImageLine (line : List Char) : ImageLine :=
  match trimBlanks (line.takeWhile (· ≠ '#')) with
  | [] => .skipped
  | c :: cs =>
    match parseDigits 2 0 (c :: cs) with
    | some n => if n ≤ 255 then .value (BitVec.ofNat 8 n) else .malformed
    | none => .malformed

/-- The values of the lines, in order, or `none` if a line is malformed. -/
def imageValues : List (List Char) → Option (List Byte)
  | [] => some []
  | line :: lines =>
    match parseImageLine line with
    | .skipped => imageValues lines
    | .value v => (imageValues lines).map (v :: ·)
    | .malformed => none

/-- Parse an image: a malformed line, or more than 256 values, is ProgramLoadFailure (60_exceptions.md R184). -/
def parseImage (lines : List (List Char)) : Except FatalKind (List Byte) :=
  match imageValues lines with
  | some vs => if vs.length ≤ Config.memSize then .ok vs else .error .programLoadFailure
  | none => .error .programLoadFailure

/-- Load values at successive addresses from `addr` (70_reset_and_hazards.md R212). -/
def loadFrom (addr : Byte) : List Byte → State → State
  | [], s => s
  | v :: vs, s => loadFrom (addr + 1) vs (hostLoad addr v s)

/-- The boot: restart, then load the image from address 0; a failed load starts no run (70_reset_and_hazards.md R212). -/
def boot (lines : List (List Char)) : Except FatalKind State :=
  match parseImage lines with
  | .ok vs => .ok (loadFrom 0 vs .reset)
  | .error k => .error k

/-! ## The exit status (60_exceptions.md R196) -/

/-- What the surrounding CLI can report. -/
inductive CliOutcome where
  | badInvocation
  | missingFile
  | malformedImage
  | ended (s : State)
  deriving DecidableEq, Repr

/-- The process exit status of an outcome (60_exceptions.md R196; D21, log 18). DESIGN CHOICE: a run that is
still RUNNING has none (log 18). -/
def exitStatus (p : Config.ExitStatuses) : CliOutcome → Option Nat
  | .badInvocation => some p.usage
  | .missingFile => some p.noFile
  | .malformedImage => some p.loadFail
  | .ended s =>
    match s.run with
    | .halted => some 0
    | .fatalError => some p.fatal
    | .running => none

end Sys2Proof.Machine
end

