-- ==== Sys2Proof/Safety.lean ====
section
/-! DEFINITION. What counts as a sound state and a safe run, in the terms the statements use. -/

namespace Sys2Proof

/-- The ALU operation an instruction runs, canonical or alias (30_encoding.md R67, R74). -/
def Instr.aluOp : Instr → Option AluOp
  | .add _ _ | .addAlias20 _ _ | .addAlias30 _ _ | .addAlias60 _ _ | .addAlias70 _ _ | .addAliasB0 _ _ => some .add
  | .sub _ _ | .subAlias21 _ _ | .subAlias31 _ _ | .subAlias61 _ _ | .subAlias71 _ _ | .subAliasB1 _ _ => some .sub
  | .mul _ _ | .mulAlias22 _ _ | .mulAlias32 _ _ | .mulAlias62 _ _ | .mulAlias72 _ _ | .mulAliasB2 _ _ => some .mul
  | .cmp _ _ | .cmpAlias27 _ _ | .cmpAlias37 _ _ | .cmpAlias67 _ _ | .cmpAlias77 _ _ | .cmpAliasB7 _ _ => some .cmp
  | .halt | .ret | .load _ _ | .print _ | .push _ | .pop _ | .call _ | .jmp _ | .jeq _ | .jne _ => none
  | .reservedOperandCount _ | .aluUnsupportedIdentifier _ | .unrecognized _ => none

/-- The error a fault class raises; none for an instruction (60_exceptions.md R181, R182). -/
def Instr.faultKind : Instr → Option Machine.FatalKind
  | .reservedOperandCount _ | .unrecognized _ => some .unrecognizedOpcode
  | .aluUnsupportedIdentifier _ => some .unsupportedOperation
  | .halt | .ret | .load _ _ | .print _ | .push _ | .pop _ | .call _ | .jmp _ | .jeq _ | .jne _ => none
  | .add _ _ | .addAlias20 _ _ | .addAlias30 _ _ | .addAlias60 _ _ | .addAlias70 _ _ | .addAliasB0 _ _
  | .sub _ _ | .subAlias21 _ _ | .subAlias31 _ _ | .subAlias61 _ _ | .subAlias71 _ _ | .subAliasB1 _ _
  | .mul _ _ | .mulAlias22 _ _ | .mulAlias32 _ _ | .mulAlias62 _ _ | .mulAlias72 _ _ | .mulAliasB2 _ _
  | .cmp _ _ | .cmpAlias27 _ _ | .cmpAlias37 _ _ | .cmpAlias67 _ _ | .cmpAlias77 _ _ | .cmpAliasB7 _ _ => none

end Sys2Proof

namespace Sys2Proof.Machine

/-- FL at a step boundary: 0x00 before any comparison, else exactly one of E, G, L, bits 7 to 3 zero
(10_state.md R24, R26). -/
abbrev State.FlagsLegal (s : State) : Prop := s.fl = 0 ∨ s.fl = flEqual ∨ s.fl = flGreater ∨ s.fl = flLess

/-- The fatal record tells the state it stands in, and only the core's own kinds are recorded
(10_state.md R28, 60_exceptions.md R180, R185). -/
abbrev State.RecordTrue (s : State) : Prop :=
  match s.fatal with
  | none => True
  | some r => r.kind ≠ .programLoadFailure ∧ r = s.fatalRecord r.kind

/-- The invariant of the machine: memory in canonical form, FL legal, a fatal record exactly in FATAL_ERROR, and true. -/
structure State.Inv (s : State) : Prop where
  memory : Memory.wf s.mem = true
  flags : s.FlagsLegal
  record : s.fatal.isSome = true ↔ s.run = .fatalError
  recordTrue : s.RecordTrue

/-- A run of `n` steps from `s` is safe: it answers a state and that state is not FATAL_ERROR. -/
def SafeRun (n : Nat) (s : State) : Prop :=
  ∃ t : State, Host.Core.run core n s = .next t ∧ t.run ≠ .fatalError

end Sys2Proof.Machine
end

