-- ==== Sys2Proof/Certificates/Slice0/Obligations.lean ====
section
/-! DEFINITION. The statements about the model. Each docstring names the rules of spec/ the statement formalises, and
the decisions and log entries it rests on. -/

open Sys2Proof Sys2Proof.Machine

/-- A restart of any state gives the reset state. 70_reset_and_hazards.md R210, R211. That R7 is the stack pointer and
RUNNING the run state at reset are the spec's own decisions D2 and D13 (log 2, log 13). -/
def Obligations.RestartGivesTheResetState : Prop :=
  ∀ s : State, let t := restart s
    (∀ i : Fin 8, t.reg i = if i.val = 7 then 0xF4 else 0) ∧ t.pc = 0 ∧ t.fl = 0 ∧ t.run = .running ∧
      t.fatal = none ∧ t.out = [] ∧ (∀ a : Byte, t.readMem a = 0) ∧ t = core.reset

/-- MemRead returns the last byte MemWrite stored; a write changes only its own byte. 20_memory.md R41. A read answers a
byte and no state, so that it changes none is its type. -/
def Obligations.MemoryReadsTheLastWrite : Prop :=
  ∀ (s : State) (m n : Int) (v : Byte),
    (s.writeMem (wrap8 m) v).readMem (wrap8 n) = (if m % 256 = n % 256 then v else s.readMem (wrap8 n)) ∧
      { s.writeMem (wrap8 m) v with mem := s.mem } = s

/-- Two memories in canonical form that read alike at all 256 addresses are equal data. The canonical form is the
model's own (log 19); the memory it stands for is 20_memory.md R40's 256 bytes. -/
def Obligations.CanonicalMemoriesThatReadAlikeAreEqual : Prop :=
  ∀ m m' : Memory, Memory.wf m = true → Memory.wf m' = true →
    (∀ a : Byte, Memory.readAt m a.toNat = Memory.readAt m' a.toNat) → m = m'

/-- The decoder's four fields are the mask-and-shift extraction of the opcode byte. 30_encoding.md R62. -/
def Obligations.OpcodeFieldsAreMaskAndShift : Prop :=
  ∀ op : Byte,
    (opCnt op).toNat = (op >>> 6 &&& 0b11).toNat ∧ (opAlu op).toNat = (op >>> 5 &&& 1).toNat ∧
      (opSetpc op).toNat = (op >>> 4 &&& 1).toNat ∧ (opId op).toNat = (op &&& 0b1111).toNat

/-- Words written out bit by bit from the opcode map decode to their instructions. 30_encoding.md R67, R73. The byte
values are the spec's own decision D1 (log 1). -/
def Obligations.WrittenWordsDecodeToTheirInstructions : Prop :=
  decode 0b00000001 5 6 = .halt ∧ decode 0b10000010 3 200 = .load 3 200 ∧ decode 0b01000111 2 6 = .print 2 ∧
    decode 0b01000101 1 6 = .push 1 ∧ decode 0b01000110 7 6 = .pop 7 ∧ decode 0b01010000 4 6 = .call 4 ∧
    decode 0b00010001 5 6 = .ret ∧ decode 0b01010100 2 6 = .jmp 2 ∧ decode 0b01010101 3 6 = .jeq 3 ∧
    decode 0b01010110 3 6 = .jne 3 ∧ decode 0b10100000 0 1 = .add 0 1 ∧ decode 0b10100001 2 3 = .sub 2 3 ∧
    decode 0b10100010 4 5 = .mul 4 5 ∧ decode 0b10100111 6 7 = .cmp 6 7 ∧ decode 0b00100000 0 1 = .addAlias20 0 1 ∧
    decode 0b00110001 2 3 = .subAlias31 2 3 ∧ decode 0b01100010 4 5 = .mulAlias62 4 5 ∧
    decode 0b01110111 6 7 = .cmpAlias77 6 7 ∧ decode 0b10110000 0 1 = .addAliasB0 0 1 ∧
    decode 0b11111111 0 0 = .reservedOperandCount 0xFF ∧ decode 0b10100011 0 1 = .aluUnsupportedIdentifier 0xA3 ∧
    decode 0b00000000 0 0 = .unrecognized 0

/-- Decode of encode is the identity on every well-formed instruction, whatever bytes follow. 30_encoding.md R61, R64,
R67. That an ALU alias encodes as three bytes whatever its cnt is the model's choice (DESIGN CHOICE, log 21): R74
says that it reads two operand bytes, and R60 gives it a length of 1 + cnt, so that by length alone a 0x20 alias is
one byte. -/
def Obligations.DecodingAnEncodedInstructionGivesItBack : Prop :=
  ∀ i : Instr, i.wellFormed = true → ∀ tail : List Byte, let bytes := encode i ++ tail
    decode (bytes.getD 0 0) (bytes.getD 1 0) (bytes.getD 2 0) = i

/-- Every three bytes decode to a well-formed instruction whose encoding is a prefix of them. 30_encoding.md R64, R73:
every byte falls in exactly one class. That an ALU alias encodes as three bytes whatever its cnt is the model's
choice (DESIGN CHOICE, log 21). -/
def Obligations.EncodingADecodedInstructionGivesItsBytesBack : Prop :=
  ∀ op oa ob : Byte, (decode op oa ob).wellFormed = true ∧ encode (decode op oa ob) <+: [op, oa, ob]

/-- Routing: reserved count first, then the ALU by identifier alone, then the dispatch table by the whole byte.
30_encoding.md R63, R68, R69, which rest on the spec's own decisions D1, D6 and D15 (log 1, log 6, log 15). -/
def Obligations.DecodingFollowsTheFieldsOfTheOpcode : Prop :=
  ∀ op oa ob : Byte,
    (opCnt op = 3 → decode op oa ob = .reservedOperandCount op) ∧
    (opCnt op ≠ 3 → opAlu op = true →
      (∀ p ∈ [((0 : BitVec 4), AluOp.add), (1, .sub), (2, .mul), (7, .cmp)], opId op = p.1 →
        (decode op oa ob).aluOp = some p.2 ∧ (decode op oa ob).opcode = op ∧
          (decode op oa ob).registerOperands = [oa, ob]) ∧
      (opId op ∉ [(0 : BitVec 4), 1, 2, 7] → decode op oa ob = .aluUnsupportedIdentifier op)) ∧
    (opCnt op ≠ 3 → opAlu op = false →
      (op ∈ [(0x01 : Byte), 0x82, 0x47, 0x45, 0x46, 0x50, 0x11, 0x54, 0x55, 0x56] →
        (decode op oa ob).opcode = op ∧ (decode op oa ob).aluOp = none ∧ (decode op oa ob).faultKind = none) ∧
      (op ∉ [(0x01 : Byte), 0x82, 0x47, 0x45, 0x46, 0x50, 0x11, 0x54, 0x55, 0x56] →
        decode op oa ob = .unrecognized op))

/-- The 256 opcode bytes split 64 reserved, 72 unsupported, 4 canonical ALU, 20 alias, 10 dispatch, 86 unrecognized.
30_encoding.md R73, which the spec derives from R63, R68 and R69. -/
def Obligations.OpcodeSpaceSplitsIntoTheSpecsClasses : Prop :=
  let count (p : Instr → Bool) : Nat := (List.range 256).countP fun n => p (decode (BitVec.ofNat 8 n) 0 0)
  count (fun i => match i with | .reservedOperandCount _ => true | _ => false) = 64 ∧
    count (fun i => i.faultKind == some .unsupportedOperation) = 72 ∧
    count (fun i => i.aluOp.isSome && [(0xA0 : Byte), 0xA1, 0xA2, 0xA7].contains i.opcode) = 4 ∧
    count (fun i => i.aluOp.isSome && !([(0xA0 : Byte), 0xA1, 0xA2, 0xA7].contains i.opcode)) = 20 ∧
    count (fun i => i.aluOp.isNone && i.faultKind.isNone) = 10 ∧
    count (fun i => match i with | .unrecognized _ => true | _ => false) = 86

/-- While RUNNING, a step executes the instruction decoded from the bytes at pc, pc + 1 and pc + 2. 30_encoding.md R64,
R70. The operand addresses wrap modulo 256 by the spec's decision D4 (log 4). -/
def Obligations.StepRunsTheDecodedInstruction : Prop :=
  ∀ (s : State) (i : Instr), s.run = .running →
    decode (s.readMem s.pc) (s.readMem (s.pc + 1)) (s.readMem (s.pc + 2)) = i → step s = exec i s

/-- withFetchWord places a table word so that the next step runs the instruction decoded from it. Model's own placement
of a program (log 22), standing for the host's load of 70_reset_and_hazards.md R212. -/
def Obligations.PlacedTableWordIsTheNextInstruction : Prop :=
  ∀ (s : State) (nbits w : Nat) (i : Instr), decodeTableWord nbits w = some i →
    step (s.withFetchWord nbits w) = exec i (s.withFetchWord nbits w)

/-- Nothing but a restart leaves HALTED or FATAL_ERROR. 60_exceptions.md R187. -/
def Obligations.EndedMachineStaysEndedUntilRestart : Prop :=
  ∀ s : State, s.run ≠ .running →
    (∀ n : Nat, Host.Core.run core n s = .next s) ∧
    ∀ (e : HostEvent) (started : Bool) (x : Session), Session.apply e { block := s, started := started } = some x →
      (e = .restart ∧ x.block = .reset) ∨ (e ≠ .restart ∧ x.block.run = s.run ∧ x.block.fatal = s.fatal)

/-- No step and no instruction stops the model: each answers a next state. 30_encoding.md R70, 60_exceptions.md R185,
R195. That a fatal error is a next state is the model's form (log 20). -/
def Obligations.EveryStepAnswersANextState : Prop :=
  (∀ (i : Instr) (s : State), ∃ t : State, exec i s = .next t) ∧ ∀ s : State, ∃ t : State, step s = .next t

/-- A run to completion and a sequence of single steps give identical state transitions. 00_scope.md R13. The bound on
the run port and its 'not finished' answer are the model's choice (DESIGN CHOICE, log 11), after
93_implementation_defined.md I13. -/
def Obligations.RunningIsSteppingRepeatedly : Prop :=
  (∀ (m n : Nat) (s t : State), Host.Core.run core m s = .next t →
      Host.Core.run core (m + n) s = Host.Core.run core n t) ∧
    ∀ (n : Nat) (s t : State), Host.Core.run core n s = .next t →
      runPort n s = if t.run = .running then .notFinished t else .ended t

/-- The machine's invariant holds right after reset. 70_reset_and_hazards.md R210, 10_state.md R24, R26, R28,
20_memory.md R40. Canonical memory is the model's own form (DESIGN CHOICE, log 19). -/
def Obligations.InvariantHoldsAtReset : Prop :=
  State.reset.Inv

/-- Every step keeps the invariant: canonical memory, legal FL, a true fatal record exactly in FATAL_ERROR. 10_state.md
R24, R26 (derived by the spec), R28; 20_memory.md R40; 60_exceptions.md R185 (D9, log 9). Canonical memory is the
model's own form (log 19). -/
def Obligations.EveryStepKeepsTheInvariant : Prop :=
  ∀ s t : State, s.Inv → step s = .next t → t.Inv

/-- A fatal error writes the run state and the record and changes nothing else. 60_exceptions.md R185, 10_state.md R28;
the spec's own decisions D7 and D9 (log 7, log 9). -/
def Obligations.FatalErrorIsPrecise : Prop :=
  ∀ (i : Instr) (s t : State), s.run ≠ .fatalError → exec i s = .next t → t.run = .fatalError →
    ∃ k : FatalKind, k ≠ .programLoadFailure ∧
      t = { s with
            run := .fatalError
            fatal := some
              { kind := k, code := k.code, pc := s.pc, byte0 := s.readMem s.pc, byte1 := s.readMem (s.pc + 1),
                byte2 := s.readMem (s.pc + 2), regs := s.regs } }

/-- When a step is fatal and with which code, for every opcode and operand byte. 60_exceptions.md R180, R181, R182,
R183, R186; the spec's own decisions D5, D6, D7 and D10 (log 5, 6, 7, 10). -/
def Obligations.StepReportsTheFirstErrorThatApplies : Prop :=
  ∀ s : State, s.run = .running → s.fatal = none →
    let op := s.readMem s.pc
    let oa := s.readMem (s.pc + 1)
    let ob := s.readMem (s.pc + 2)
    let code : Option Nat :=
      if opCnt op = 3 then some 1
      else if opAlu op = true then
        if opId op ∉ [(0 : BitVec 4), 1, 2, 7] then some 2
        else if 8 ≤ oa.toNat ∨ 8 ≤ ob.toNat then some 3
        else none
      else if op ∉ [(0x01 : Byte), 0x82, 0x47, 0x45, 0x46, 0x50, 0x11, 0x54, 0x55, 0x56] then some 1
      else if op = 0x01 ∨ op = 0x11 then none
      else if 8 ≤ oa.toNat then some 3
      else none
    ∃ t : State, step s = .next t ∧ t.fatal.map (fun r => r.code) = code ∧ (t.run = .fatalError ↔ code ≠ none)

/-- An ALU opcode with no matching identifier raises UnsupportedOperation and the run is over. 60_exceptions.md R182. -/
def Obligations.UnsupportedIdentifierAbortsTheRun : Prop :=
  (∀ s : State, s.run = .running →
    (s.readMem s.pc).getLsbD 5 = true → opCnt (s.readMem s.pc) ≠ 3 →
    opId (s.readMem s.pc) ∉ [(0 : BitVec 4), 1, 2, 7] →
      ∃ (t : State) (r : FatalRecord), step s = .next t ∧ t.run = .fatalError ∧ t.fatal = some r ∧
        r.kind = .unsupportedOperation ∧ r.code = 2 ∧ ∀ n : Nat, Host.Core.run core n t = .next t) ∧
    (List.range 256).countP (fun n => let op := BitVec.ofNat 8 n
      op.getLsbD 5 && decide (opCnt op ≠ 3) && decide (opId op ∉ [(0 : BitVec 4), 1, 2, 7])) = 72

/-- Executing a reserved, unsupported or unrecognized opcode takes the fatal-error entry. 30_encoding.md R63, R68, R69;
60_exceptions.md R181, R182, R185 (D6, D7, D9; log 6, 7, 9). The effect of these three rows IS the entry. -/
def Obligations.FaultClassesTakeTheFatalEntry : Prop :=
  ∀ (op : Byte) (s : State),
    exec (.reservedOperandCount op) s = .next
      { s with
          run := .fatalError
          fatal := some
            { kind := .unrecognizedOpcode, code := 1, pc := s.pc, byte0 := s.readMem s.pc, byte1 := s.readMem (s.pc + 1),
              byte2 := s.readMem (s.pc + 2), regs := s.regs } } ∧
    exec (.aluUnsupportedIdentifier op) s = .next
      { s with
          run := .fatalError
          fatal := some
            { kind := .unsupportedOperation, code := 2, pc := s.pc, byte0 := s.readMem s.pc, byte1 := s.readMem (s.pc + 1),
              byte2 := s.readMem (s.pc + 2), regs := s.regs } } ∧
    exec (.unrecognized op) s = .next
      { s with
          run := .fatalError
          fatal := some
            { kind := .unrecognizedOpcode, code := 1, pc := s.pc, byte0 := s.readMem s.pc, byte1 := s.readMem (s.pc + 1),
              byte2 := s.readMem (s.pc + 2), regs := s.regs } }

/-- Any named register operand of 8 or more raises InvalidRegisterIndex and changes nothing else. 30_encoding.md R65,
60_exceptions.md R183: the spec's own decision D5 (log 5). -/
def Obligations.RegisterOperandOfEightOrMoreIsFatal : Prop :=
  ∀ (i : Instr) (s : State), (∃ r ∈ i.registerOperands, 8 ≤ r.toNat) →
    exec i s = .next
      { s with
          run := .fatalError
          fatal := some
            { kind := .invalidRegisterIndex, code := 3, pc := s.pc, byte0 := s.readMem s.pc, byte1 := s.readMem (s.pc + 1),
              byte2 := s.readMem (s.pc + 2), regs := s.regs } }

/-- An instruction with valid register operands completes, raises nothing, and only HALT changes the run state.
30_encoding.md R70, 60_exceptions.md R180, R189, R194. -/
def Obligations.ValidInstructionsRaiseNothing : Prop :=
  ∀ (i : Instr) (s : State), i.registersValid = true → i.faultKind = none →
    ∃ t : State, exec i s = .next t ∧ t.fatal = s.fatal ∧ (i ≠ .halt → t.run = s.run)

/-- ADD writes wrap8(va + vb) to its first register and nothing else but pc. 40_alu.md R101. The opcode byte and the
register check that the rule names are the spec's decisions D1 and D5 (log 1, log 5). -/
def Obligations.AddWritesTheSumModulo256 : Prop :=
  (∀ oa ob : Byte, decode 0xA0 oa ob = .add oa ob ∧ encode (.add oa ob) = [0xA0, oa, ob]) ∧
    (∀ (oa ob : Byte) (a b : Fin 8) (s : State), oa.toNat = a.val → ob.toNat = b.val →
      exec (.add oa ob) s = .next
        { s with
          regs := s.regs.set a (wrap8 (((s.reg a).toNat : Int) + ((s.reg b).toNat : Int)))
          pc := s.pc + 3 }) ∧
    ∀ (oa ob : Byte) (s : State), 8 ≤ oa.toNat ∨ 8 ≤ ob.toNat →
      exec (.add oa ob) s = .next (s.raiseFatal .invalidRegisterIndex)

/-- SUB writes wrap8(va - vb) to its first register and nothing else but pc. 40_alu.md R102. The opcode byte and the
register check that the rule names are the spec's decisions D1 and D5 (log 1, log 5). -/
def Obligations.SubWritesTheDifferenceModulo256 : Prop :=
  (∀ oa ob : Byte, decode 0xA1 oa ob = .sub oa ob ∧ encode (.sub oa ob) = [0xA1, oa, ob]) ∧
    (∀ (oa ob : Byte) (a b : Fin 8) (s : State), oa.toNat = a.val → ob.toNat = b.val →
      exec (.sub oa ob) s = .next
        { s with
          regs := s.regs.set a (wrap8 (((s.reg a).toNat : Int) - ((s.reg b).toNat : Int)))
          pc := s.pc + 3 }) ∧
    ∀ (oa ob : Byte) (s : State), 8 ≤ oa.toNat ∨ 8 ≤ ob.toNat →
      exec (.sub oa ob) s = .next (s.raiseFatal .invalidRegisterIndex)

/-- MUL writes wrap8(va * vb) to its first register and nothing else but pc. 40_alu.md R103. The opcode byte and the
register check that the rule names are the spec's decisions D1 and D5 (log 1, log 5). -/
def Obligations.MulWritesTheProductModulo256 : Prop :=
  (∀ oa ob : Byte, decode 0xA2 oa ob = .mul oa ob ∧ encode (.mul oa ob) = [0xA2, oa, ob]) ∧
    (∀ (oa ob : Byte) (a b : Fin 8) (s : State), oa.toNat = a.val → ob.toNat = b.val →
      exec (.mul oa ob) s = .next
        { s with
          regs := s.regs.set a (wrap8 (((s.reg a).toNat : Int) * ((s.reg b).toNat : Int)))
          pc := s.pc + 3 }) ∧
    ∀ (oa ob : Byte) (s : State), 8 ≤ oa.toNat ∨ 8 ≤ ob.toNat →
      exec (.mul oa ob) s = .next (s.raiseFatal .invalidRegisterIndex)

/-- CMP writes FL with E, L or G alone by the unsigned order, and nothing else but pc. 40_alu.md R104. The bit places
are the spec's decision D3 (log 3). -/
def Obligations.CmpWritesExactlyOneFlag : Prop :=
  ∀ (oa ob : Byte) (a b : Fin 8) (s : State), oa.toNat = a.val → ob.toNat = b.val →
    exec (.cmp oa ob) s = .next
      { s with
        fl := if (s.reg a).toNat = (s.reg b).toNat then 0b00000001
              else if (s.reg a).toNat < (s.reg b).toNat then 0b00000100 else 0b00000010
        pc := s.pc + 3 }

/-- The five ALU aliases of ADD run ADD and move pc by their own cnt and setpc. 30_encoding.md R74, R71, R72 and
40_alu.md R101. D1, D4 and D5 (log 1, 4, 5). -/
def Obligations.AddAliasesRunAddWithTheirOwnAdvance : Prop :=
  ∀ p ∈ ([(0x20, .addAlias20, 1), (0x30, .addAlias30, 0),
      (0x60, .addAlias60, 2), (0x70, .addAlias70, 0), (0xB0, .addAliasB0, 0)] :
      List (Byte × (Byte → Byte → Instr) × Byte)), ∀ oa ob : Byte,
    decode p.1 oa ob = p.2.1 oa ob ∧
      (∀ (a b : Fin 8) (s : State), oa.toNat = a.val → ob.toNat = b.val →
        exec (p.2.1 oa ob) s = .next
          { s with
            regs := s.regs.set a (wrap8 (((s.reg a).toNat : Int) + ((s.reg b).toNat : Int)))
            pc := s.pc + p.2.2 }) ∧
      ∀ s : State, 8 ≤ oa.toNat ∨ 8 ≤ ob.toNat →
        exec (p.2.1 oa ob) s = .next (s.raiseFatal .invalidRegisterIndex)

/-- The five ALU aliases of SUB run SUB and move pc by their own cnt and setpc. 30_encoding.md R74, R71, R72 and
40_alu.md R102. D1, D4 and D5 (log 1, 4, 5). -/
def Obligations.SubAliasesRunSubWithTheirOwnAdvance : Prop :=
  ∀ p ∈ ([(0x21, .subAlias21, 1), (0x31, .subAlias31, 0),
      (0x61, .subAlias61, 2), (0x71, .subAlias71, 0), (0xB1, .subAliasB1, 0)] :
      List (Byte × (Byte → Byte → Instr) × Byte)), ∀ oa ob : Byte,
    decode p.1 oa ob = p.2.1 oa ob ∧
      (∀ (a b : Fin 8) (s : State), oa.toNat = a.val → ob.toNat = b.val →
        exec (p.2.1 oa ob) s = .next
          { s with
            regs := s.regs.set a (wrap8 (((s.reg a).toNat : Int) - ((s.reg b).toNat : Int)))
            pc := s.pc + p.2.2 }) ∧
      ∀ s : State, 8 ≤ oa.toNat ∨ 8 ≤ ob.toNat →
        exec (p.2.1 oa ob) s = .next (s.raiseFatal .invalidRegisterIndex)

/-- The five ALU aliases of MUL run MUL and move pc by their own cnt and setpc. 30_encoding.md R74, R71, R72 and
40_alu.md R103. D1, D4 and D5 (log 1, 4, 5). -/
def Obligations.MulAliasesRunMulWithTheirOwnAdvance : Prop :=
  ∀ p ∈ ([(0x22, .mulAlias22, 1), (0x32, .mulAlias32, 0),
      (0x62, .mulAlias62, 2), (0x72, .mulAlias72, 0), (0xB2, .mulAliasB2, 0)] :
      List (Byte × (Byte → Byte → Instr) × Byte)), ∀ oa ob : Byte,
    decode p.1 oa ob = p.2.1 oa ob ∧
      (∀ (a b : Fin 8) (s : State), oa.toNat = a.val → ob.toNat = b.val →
        exec (p.2.1 oa ob) s = .next
          { s with
            regs := s.regs.set a (wrap8 (((s.reg a).toNat : Int) * ((s.reg b).toNat : Int)))
            pc := s.pc + p.2.2 }) ∧
      ∀ s : State, 8 ≤ oa.toNat ∨ 8 ≤ ob.toNat →
        exec (p.2.1 oa ob) s = .next (s.raiseFatal .invalidRegisterIndex)

/-- The five ALU aliases of CMP run CMP and move pc by their own cnt and setpc. 30_encoding.md R74, R71, R72 and
40_alu.md R104. D1, D4 and D5 (log 1, 4, 5). -/
def Obligations.CmpAliasesRunCmpWithTheirOwnAdvance : Prop :=
  ∀ p ∈ ([(0x27, .cmpAlias27, 1), (0x37, .cmpAlias37, 0),
      (0x67, .cmpAlias67, 2), (0x77, .cmpAlias77, 0), (0xB7, .cmpAliasB7, 0)] :
      List (Byte × (Byte → Byte → Instr) × Byte)), ∀ oa ob : Byte,
    decode p.1 oa ob = p.2.1 oa ob ∧
      (∀ (a b : Fin 8) (s : State), oa.toNat = a.val → ob.toNat = b.val →
        exec (p.2.1 oa ob) s = .next
          { s with
            fl := if (s.reg a).toNat = (s.reg b).toNat then 0b00000001
                else if (s.reg a).toNat < (s.reg b).toNat then 0b00000100 else 0b00000010
            pc := s.pc + p.2.2 }) ∧
      ∀ s : State, 8 ≤ oa.toNat ∨ 8 ≤ ob.toNat →
        exec (p.2.1 oa ob) s = .next (s.raiseFatal .invalidRegisterIndex)

/-- An ALU alias with setpc = 1 and valid registers repeats forever. 30_encoding.md R72 (derived by the spec), R74;
70_reset_and_hazards.md R217. -/
def Obligations.RepeatingAliasNeverEndsTheRun : Prop :=
  ∀ (s : State) (a b : Fin 8), s.run = .running →
    opCnt (s.readMem s.pc) ≠ 3 → opAlu (s.readMem s.pc) = true → opSetpc (s.readMem s.pc) = true →
    opId (s.readMem s.pc) ∈ [(0 : BitVec 4), 1, 2, 7] →
    (s.readMem (s.pc + 1)).toNat = a.val → (s.readMem (s.pc + 2)).toNat = b.val →
      ∀ n : Nat, ∃ t : State, Host.Core.run core n s = .next t ∧ t.run = .running ∧ t.pc = s.pc ∧ t.mem = s.mem ∧
        t.out = s.out ∧ (∀ r : Fin 8, r ≠ a → t.reg r = s.reg r) ∧
        (a ≠ b → opId (s.readMem s.pc) = 0 → t.reg a = s.reg a + BitVec.ofNat 8 n * s.reg b) ∧
        (a ≠ b → opId (s.readMem s.pc) = 1 → t.reg a = s.reg a - BitVec.ofNat 8 n * s.reg b) ∧
        (a ≠ b → opId (s.readMem s.pc) = 2 → t.reg a = s.reg a * s.reg b ^ n)

/-- HALT makes the run state HALTED and changes no register, flag, memory byte, output or record. 41_dispatch_basic.md
R121. The pc after HALT is left out, as 93_implementation_defined.md I8 asks (D8, log 8). -/
def Obligations.HaltEndsTheRunCleanly : Prop :=
  ∀ s : State, ∃ t : State, exec .halt s = .next t ∧ t.run = .halted ∧ t.regs = s.regs ∧ t.fl = s.fl ∧ t.mem = s.mem ∧
    t.out = s.out ∧ t.fatal = s.fatal

/-- LOAD writes its immediate byte to its register and nothing else but pc. 41_dispatch_basic.md R122. The opcode byte
and the register check that the rule names are the spec's decisions D1 and D5 (log 1, log 5). -/
def Obligations.LoadWritesTheImmediate : Prop :=
  (∀ oa imm : Byte, decode 0x82 oa imm = .load oa imm ∧ encode (.load oa imm) = [0x82, oa, imm]) ∧
    (∀ (oa imm : Byte) (a : Fin 8) (s : State), oa.toNat = a.val →
      exec (.load oa imm) s = .next { s with regs := s.regs.set a imm, pc := s.pc + 3 }) ∧
    ∀ (oa imm : Byte) (s : State), 8 ≤ oa.toNat →
      exec (.load oa imm) s = .next (s.raiseFatal .invalidRegisterIndex)

/-- PRINT appends its register's value to the output channel and changes nothing else but pc. 41_dispatch_basic.md R123,
10_state.md R29: the spec's own decision D12 (log 12). -/
def Obligations.PrintAppendsOneByteToTheOutput : Prop :=
  ∀ (oa : Byte) (a : Fin 8) (s : State), oa.toNat = a.val →
    exec (.print oa) s = .next { s with out := s.out ++ [s.reg a], pc := s.pc + 2 }

/-- PUSH decrements R7 and stores the register, read after the decrement, at the new R7. 42_stack.md R140, 20_memory.md
R52; D2 and D4 (log 2, log 4). -/
def Obligations.PushStoresBelowTheStackPointer : Prop :=
  ∀ (oa : Byte) (a : Fin 8) (s : State), oa.toNat = a.val →
    ∃ t : State, exec (.push oa) s = .next t ∧
      (∀ r : Fin 8, t.reg r = if r = 7 then s.reg 7 - 1 else s.reg r) ∧
      (∀ addr : Byte, t.readMem addr =
        if addr = s.reg 7 - 1 then (if a = 7 then s.reg 7 - 1 else s.reg a) else s.readMem addr) ∧
      t.pc = s.pc + 2 ∧ t.fl = s.fl ∧ t.run = s.run ∧ t.fatal = s.fatal ∧ t.out = s.out

/-- POP loads the byte at R7 into its register and then increments R7. 42_stack.md R141, 20_memory.md R52; D2 and D4
(log 2, log 4). -/
def Obligations.PopLoadsTheTopOfTheStack : Prop :=
  ∀ (oa : Byte) (a : Fin 8) (s : State), oa.toNat = a.val →
    ∃ t : State, exec (.pop oa) s = .next t ∧
      (∀ r : Fin 8, t.reg r =
        if r = 7 then (if a = 7 then s.readMem (s.reg 7) + 1 else s.reg 7 + 1)
        else if r = a then s.readMem (s.reg 7) else s.reg r) ∧
      t.mem = s.mem ∧ t.pc = s.pc + 2 ∧ t.fl = s.fl ∧ t.run = s.run ∧ t.fatal = s.fatal ∧ t.out = s.out

/-- CALL decrements R7, stores pc + 2 at the new R7, and jumps to its register as it stands after the decrement.
43_control.md R160; D2, D4 and D14 (log 2, 4, 14). -/
def Obligations.CallPushesTheReturnAddressAndJumps : Prop :=
  ∀ (oa : Byte) (a : Fin 8) (s : State), oa.toNat = a.val →
    ∃ t : State, exec (.call oa) s = .next t ∧
      (∀ r : Fin 8, t.reg r = if r = 7 then s.reg 7 - 1 else s.reg r) ∧
      (∀ addr : Byte, t.readMem addr = if addr = s.reg 7 - 1 then s.pc + 2 else s.readMem addr) ∧
      t.pc = (if a = 7 then s.reg 7 - 1 else s.reg a) ∧ t.fl = s.fl ∧ t.run = s.run ∧ t.fatal = s.fatal ∧ t.out = s.out

/-- RET sets pc to the byte at R7 and increments R7. 43_control.md R161; D2, D4 and D14 (log 2, 4, 14). -/
def Obligations.RetReturnsToThePoppedAddress : Prop :=
  ∀ s : State, ∃ t : State, exec .ret s = .next t ∧ t.pc = s.readMem (s.reg 7) ∧
    (∀ r : Fin 8, t.reg r = if r = 7 then s.reg 7 + 1 else s.reg r) ∧ t.mem = s.mem ∧ t.fl = s.fl ∧ t.run = s.run ∧ t.fatal = s.fatal ∧ t.out = s.out

/-- JMP sets pc to its register's value and changes nothing else. 43_control.md R162. The opcode byte and the register
check that the rule names are the spec's decisions D1 and D5 (log 1, log 5). -/
def Obligations.JmpSetsPcToTheRegister : Prop :=
  (∀ oa ob : Byte, decode 0x54 oa ob = .jmp oa ∧ encode (.jmp oa) = [0x54, oa] ∧ opCnt 0x54 = 1 ∧
      opSetpc 0x54 = true) ∧
    (∀ (oa : Byte) (a : Fin 8) (s : State), oa.toNat = a.val → exec (.jmp oa) s = .next { s with pc := s.reg a }) ∧
    ∀ (oa : Byte) (s : State), 8 ≤ oa.toNat → exec (.jmp oa) s = .next (s.raiseFatal .invalidRegisterIndex)

/-- JEQ jumps to its register when bit 0 of FL is set, and otherwise goes on at pc + 2. 43_control.md R163; that E is
bit 0 is D3, and pc + 2 wraps by D4 (log 3, log 4). -/
def Obligations.JeqJumpsExactlyWhenEqualIsSet : Prop :=
  ∀ (oa : Byte) (a : Fin 8) (s : State), oa.toNat = a.val →
    exec (.jeq oa) s = .next { s with pc := if s.fl.getLsbD 0 = true then s.reg a else s.pc + 2 }

/-- JNE jumps to its register when bit 0 of FL is clear, and otherwise goes on at pc + 2. 43_control.md R164; that E is
bit 0 is D3, and pc + 2 wraps by D4 (log 3, log 4). -/
def Obligations.JneJumpsExactlyWhenEqualIsClear : Prop :=
  ∀ (oa : Byte) (a : Fin 8) (s : State), oa.toNat = a.val →
    exec (.jne oa) s = .next { s with pc := if s.fl.getLsbD 0 = false then s.reg a else s.pc + 2 }

/-- PUSH then POP of one register leaves all registers and FL; of two registers, copies the first into the second.
42_stack.md R142, which the spec derives from R140 and R141. -/
def Obligations.PushThenPopRoundTrips : Prop :=
  (∀ (oa : Byte) (a : Fin 8) (s : State), oa.toNat = a.val →
    ∃ u t : State, exec (.push oa) s = .next u ∧ exec (.pop oa) u = .next t ∧
      t.regs = s.regs ∧ t.fl = s.fl ∧ t.out = s.out ∧ t.run = s.run ∧ t.pc = s.pc + 4 ∧
      (a ≠ 7 → t.readMem (s.reg 7 - 1) = s.reg a) ∧
      ∀ addr : Byte, addr ≠ s.reg 7 - 1 → t.readMem addr = s.readMem addr) ∧
    ∀ (oa ob : Byte) (a b : Fin 8) (s : State), oa.toNat = a.val → ob.toNat = b.val → a ≠ 7 → b ≠ 7 →
      ∃ u t : State, exec (.push oa) s = .next u ∧ exec (.pop ob) u = .next t ∧ t.reg b = s.reg a ∧
        ∀ r : Fin 8, r ≠ b → t.reg r = s.reg r

/-- A RET that finds the stack pointer and the return byte as CALL left them returns to the CALL's pc + 2. 43_control.md
R166, which the spec derives from R160 and R161. -/
def Obligations.CallThenRetReturnsAfterTheCall : Prop :=
  ∀ (oa : Byte) (a : Fin 8) (s : State), oa.toNat = a.val →
    ∃ t : State, exec (.call oa) s = .next t ∧
      ∀ u : State, u.reg 7 = t.reg 7 → u.readMem (t.reg 7) = t.readMem (t.reg 7) →
        ∃ v : State, exec .ret u = .next v ∧ v.pc = s.pc + 2 ∧ v.reg 7 = s.reg 7

/-- Only a compare writes FL; no instruction but JEQ and JNE depends on FL, and they depend only on bit E. 10_state.md
R25. No instruction reads L or G follows from the second clause. -/
def Obligations.OnlyCmpWritesFlagsAndOnlyBranchesReadEqual : Prop :=
  (∀ (i : Instr) (s t : State), exec i s = .next t → i.aluOp ≠ some .cmp → t.fl = s.fl) ∧
    ∀ (i : Instr) (s t : State) (f : Byte), exec i s = .next t →
      ((∃ oa : Byte, i = .jeq oa ∨ i = .jne oa) → f.getLsbD 0 = s.fl.getLsbD 0) →
        ∃ t' : State, exec i { s with fl := f } = .next t' ∧ { t' with fl := t.fl } = t ∧
          (i.aluOp = some .cmp → i.registersValid = true → t'.fl = t.fl)

/-- A compare leaves FL 0x01, 0x02 or 0x04, and no number of steps takes it from those values. 10_state.md R26, which
the spec derives; bit places by D3 (log 3). -/
def Obligations.FlagsStayNonzeroAfterAComparison : Prop :=
  let one (s : State) : Prop := s.fl = 0x01 ∨ s.fl = 0x02 ∨ s.fl = 0x04
  (∀ (i : Instr) (s : State), i.aluOp = some .cmp → i.registersValid = true → ∃ t : State, exec i s = .next t ∧ one t) ∧
    ∀ (n : Nat) (s t : State), one s → Host.Core.run core n s = .next t → one t

/-- A step reads the three fetched bytes and, for POP and RET, the byte at SP; it writes one byte, for PUSH and CALL.
20_memory.md R43. SP is R7 (D2, log 2). -/
def Obligations.OnlyStackInstructionsAccessMemoryBeyondTheFetch : Prop :=
  (∀ (i : Instr) (s t : State) (addr : Byte), exec i s = .next t → t.readMem addr ≠ s.readMem addr →
      addr = s.sp - 1 ∧ ∃ oa : Byte, i = .push oa ∨ i = .call oa) ∧
    ∀ (s t : State) (m : Memory), let s' : State := { s with mem := m }
      s'.readMem s.pc = s.readMem s.pc → s'.readMem (s.pc + 1) = s.readMem (s.pc + 1) →
      s'.readMem (s.pc + 2) = s.readMem (s.pc + 2) →
      ((s.fetch = .ret ∨ ∃ oa : Byte, s.fetch = .pop oa) → s'.readMem s.sp = s.readMem s.sp) →
      step s = .next t → ∃ t' : State, step s' = .next t' ∧ { t' with mem := t.mem } = t

/-- The output channel is append-only, grows by at most one byte a step, and only PRINT writes it. 10_state.md R29,
60_exceptions.md R191: the spec's own decision D12 (log 12). -/
def Obligations.OutputGrowsOnlyByPrint : Prop :=
  (∀ (i : Instr) (s t : State), exec i s = .next t → t.out ≠ s.out → ∃ oa : Byte, i = .print oa) ∧
    ∀ (n : Nat) (s t : State), Host.Core.run core n s = .next t →
      ∃ l : List Byte, t.out = s.out ++ l ∧ l.length ≤ n

/-- Every setpc = 0 opcode advances pc by 1 + cnt of its own byte; a setpc = 1 alias leaves pc. 30_encoding.md R71, R72;
the wrap is D4. For HALT this is the spec's decision D8 (log 4, log 8). -/
def Obligations.PcAdvancesByOnePlusCountUnlessSetpc : Prop :=
  ∀ (i : Instr) (s : State), i.registersValid = true → i.faultKind = none →
    ∃ t : State, exec i s = .next t ∧
      (opSetpc i.opcode = false → t.pc = s.pc + BitVec.ofNat 8 (1 + (opCnt i.opcode).toNat)) ∧
      (opSetpc i.opcode = true → opAlu i.opcode = true → t.pc = s.pc)

/-- A register that changes is the first operand of LOAD, POP, ADD, SUB or MUL, or R7 in a stack instruction. 40_alu.md
R100, 41_dispatch_basic.md R121 to R123, 42_stack.md R140, R141, 43_control.md R160 to R165. R7 is D2 (log 2). -/
def Obligations.RegistersChangeOnlyAsTheInstructionNames : Prop :=
  ∀ (i : Instr) (s t : State) (r : Fin 8), exec i s = .next t → t.reg r ≠ s.reg r →
    (r = 7 ∧ (i = .ret ∨ ∃ oa : Byte, i = .push oa ∨ i = .pop oa ∨ i = .call oa)) ∨
    (∃ oa : Byte, oa.toNat = r.val ∧ i.operandBytes.head? = some oa ∧
      (i = .pop oa ∨ (∃ imm : Byte, i = .load oa imm) ∨ i.aluOp = some .add ∨ i.aluOp = some .sub ∨
        i.aluOp = some .mul))

/-- A RUNNING machine becomes HALTED exactly by HALT. 10_state.md R27, 70_reset_and_hazards.md R217. -/
def Obligations.OnlyHaltReachesHalted : Prop :=
  ∀ (i : Instr) (s t : State), s.run = .running → exec i s = .next t → (t.run = .halted ↔ i = .halt)

/-- A PUSH that stores over the next opcode is seen by the next fetch; its own operands were latched before.
20_memory.md R50, which the spec derives; R30 of 10_state.md. -/
def Obligations.PushedByteIsSeenByTheNextFetch : Prop :=
  ∀ (s : State) (oa : Byte) (a : Fin 8), s.run = .running → s.fetch = .push oa → oa.toNat = a.val →
    (s.sp - 1 = s.pc + 2 → ∃ t : State, step s = .next t ∧ t.pc = s.pc + 2 ∧
      t.readMem t.pc = if a = 7 then s.sp - 1 else s.reg a) ∧
    (s.sp - 1 = s.pc + 1 → ∃ t : State, step s = .next t ∧ t.pc = s.pc + 2 ∧
      t.readMem (s.pc + 1) = if a = 7 then s.sp - 1 else s.reg a)

/-- Loading an image of at most 256 bytes writes memory from address 0 and leaves all else at reset.
70_reset_and_hazards.md R212, R213 (derived by the spec). -/
def Obligations.LoadedImageFillsMemoryFromAddressZero : Prop :=
  ∀ vs : List Byte, vs.length ≤ 256 → let t := loadFrom 0 vs .reset
    (∀ a : Byte, t.readMem a = vs.getD a.toNat 0) ∧ { t with mem := [] } = State.reset

/-- Boot fails exactly when a line is malformed or the image holds more than 256 values, with ProgramLoadFailure.
30_encoding.md R77, 60_exceptions.md R184, 70_reset_and_hazards.md R212: the spec's own decision D20 (log 17). Which
characters are white space in a line is the model's choice (DESIGN CHOICE, log 17). -/
def Obligations.BootFailsExactlyOnAMalformedOrOverlongImage : Prop :=
  ∀ lines : List (List Char),
    let values := lines.filterMap fun l => (parseImageLine l).byte
    if (∃ l ∈ lines, parseImageLine l = .malformed) ∨ 256 < values.length then
      boot lines = .error .programLoadFailure
    else boot lines = .ok (loadFrom 0 values .reset)

/-- An image line of a byte's eight binary digits and a comment is read as that byte. 30_encoding.md R77. -/
def Obligations.EightBinaryDigitsSpellTheirByte : Prop :=
  ∀ (v : Byte) (comment : List Char),
    parseImageLine ((List.range 8).reverse.map (fun k => if v.getLsbD k then '1' else '0') ++ ' ' :: '#' :: comment) =
      .value v

/-- The host's load is one MemWrite before the first step and no move at all after it. 60_exceptions.md R195, R197: the
spec's own decision D11 (log 11). The bound on run, and that a run request ends the loading phase even when its
bound is 0 and no step is taken, are the model's choice (DESIGN CHOICE, log 11): R195 says only 'before the first
step'. -/
def Obligations.HostLoadsOnlyBeforeTheFirstStep : Prop :=
  ∀ (x : Session) (addr v : Byte) (n : Nat),
    (x.started = true → Session.apply (.load addr v) x = none) ∧
    (x.started = false → Session.apply (.load addr v) x = some { x with block := x.block.writeMem addr v }) ∧
    Session.apply .restart x = some { block := .reset, started := false } ∧
    (∀ y : Session, Session.apply .step x = some y ∨ Session.apply (.run n) x = some y → y.started = true)

/-- With legal parameters, the exit status is 0 exactly for a run that ends HALTED. 60_exceptions.md R196: the statuses
are OPEN, decision D21 (log 18). That a run still RUNNING has no exit status is the model's choice (DESIGN CHOICE,
log 18): R196 names no such outcome. -/
def Obligations.ExitStatusIsZeroExactlyForHalted : Prop :=
  ∀ p : Config.ExitStatuses, p.Valid →
    (∀ o : CliOutcome, exitStatus p o = some 0 ↔ ∃ s : State, o = .ended s ∧ s.run = .halted) ∧
    exitStatus p .missingFile ≠ exitStatus p .badInvocation ∧
    ∀ s : State, exitStatus p (.ended s) = none ↔ s.run = .running
end

