-- ==== Sys2Proof/Laws/Decode.lean ====
section
/-! SUPPORT. What the decoder answers on each opcode byte, so that no proof unfolds its tables. -/

namespace Sys2Proof

variable (op oa ob : Byte)

@[simp] theorem decode_halt : decode opHalt oa ob = .halt := rfl
@[simp] theorem decode_ret : decode opRet oa ob = .ret := rfl
@[simp] theorem decode_load : decode opLoad oa ob = .load oa ob := rfl
@[simp] theorem decode_print : decode opPrint oa ob = .print oa := rfl
@[simp] theorem decode_push : decode opPush oa ob = .push oa := rfl
@[simp] theorem decode_pop : decode opPop oa ob = .pop oa := rfl
@[simp] theorem decode_call : decode opCall oa ob = .call oa := rfl
@[simp] theorem decode_jmp : decode opJmp oa ob = .jmp oa := rfl
@[simp] theorem decode_jeq : decode opJeq oa ob = .jeq oa := rfl
@[simp] theorem decode_jne : decode opJne oa ob = .jne oa := rfl
@[simp] theorem decode_add : decode opAdd oa ob = .add oa ob := rfl
@[simp] theorem decode_sub : decode opSub oa ob = .sub oa ob := rfl
@[simp] theorem decode_mul : decode opMul oa ob = .mul oa ob := rfl
@[simp] theorem decode_cmp : decode opCmp oa ob = .cmp oa ob := rfl
@[simp] theorem decode_addAlias20 : decode 0x20#8 oa ob = .addAlias20 oa ob := rfl
@[simp] theorem decode_subAlias21 : decode 0x21#8 oa ob = .subAlias21 oa ob := rfl
@[simp] theorem decode_mulAlias22 : decode 0x22#8 oa ob = .mulAlias22 oa ob := rfl
@[simp] theorem decode_cmpAlias27 : decode 0x27#8 oa ob = .cmpAlias27 oa ob := rfl
@[simp] theorem decode_addAlias30 : decode 0x30#8 oa ob = .addAlias30 oa ob := rfl
@[simp] theorem decode_subAlias31 : decode 0x31#8 oa ob = .subAlias31 oa ob := rfl
@[simp] theorem decode_mulAlias32 : decode 0x32#8 oa ob = .mulAlias32 oa ob := rfl
@[simp] theorem decode_cmpAlias37 : decode 0x37#8 oa ob = .cmpAlias37 oa ob := rfl
@[simp] theorem decode_addAlias60 : decode 0x60#8 oa ob = .addAlias60 oa ob := rfl
@[simp] theorem decode_subAlias61 : decode 0x61#8 oa ob = .subAlias61 oa ob := rfl
@[simp] theorem decode_mulAlias62 : decode 0x62#8 oa ob = .mulAlias62 oa ob := rfl
@[simp] theorem decode_cmpAlias67 : decode 0x67#8 oa ob = .cmpAlias67 oa ob := rfl
@[simp] theorem decode_addAlias70 : decode 0x70#8 oa ob = .addAlias70 oa ob := rfl
@[simp] theorem decode_subAlias71 : decode 0x71#8 oa ob = .subAlias71 oa ob := rfl
@[simp] theorem decode_mulAlias72 : decode 0x72#8 oa ob = .mulAlias72 oa ob := rfl
@[simp] theorem decode_cmpAlias77 : decode 0x77#8 oa ob = .cmpAlias77 oa ob := rfl
@[simp] theorem decode_addAliasB0 : decode 0xB0#8 oa ob = .addAliasB0 oa ob := rfl
@[simp] theorem decode_subAliasB1 : decode 0xB1#8 oa ob = .subAliasB1 oa ob := rfl
@[simp] theorem decode_mulAliasB2 : decode 0xB2#8 oa ob = .mulAliasB2 oa ob := rfl
@[simp] theorem decode_cmpAliasB7 : decode 0xB7#8 oa ob = .cmpAliasB7 oa ob := rfl

/-! ## The classes -/

theorem aluTable_lookup_none : ∀ op : Byte, isReservedCount op = false → opAlu op = true →
    (aluTable.lookup op).isNone = isUnsupportedAlu op := by decide

theorem dispatchTable_lookup_none : ∀ op : Byte, isReservedCount op = false → opAlu op = false →
    (dispatchTable.lookup op).isNone = isUnrecognized op := by decide

theorem unsupportedAlu_fields : ∀ op : Byte, isUnsupportedAlu op = true →
    isReservedCount op = false ∧ opAlu op = true := by decide

theorem unrecognized_fields : ∀ op : Byte, isUnrecognized op = true →
    isReservedCount op = false ∧ opAlu op = false := by decide

theorem decode_reserved {op : Byte} (h : isReservedCount op = true) : decode op oa ob = .reservedOperandCount op := by
  simp [decode, h]

theorem decode_unsupported {op : Byte} (h : isUnsupportedAlu op = true) :
    decode op oa ob = .aluUnsupportedIdentifier op := by
  obtain ⟨hr, ha⟩ := unsupportedAlu_fields op h
  have hl : aluTable.lookup op = none := by
    rw [← Option.isNone_iff_eq_none, aluTable_lookup_none op hr ha, h]
  unfold decode
  rw [if_neg (by simp [hr]), if_pos ha, hl]

theorem decode_unrecognized {op : Byte} (h : isUnrecognized op = true) : decode op oa ob = .unrecognized op := by
  obtain ⟨hr, ha⟩ := unrecognized_fields op h
  have hl : dispatchTable.lookup op = none := by
    rw [← Option.isNone_iff_eq_none, dispatchTable_lookup_none op hr ha, h]
  unfold decode
  rw [if_neg (by simp [hr]), if_neg (by simp [ha]), hl]

/-- Every opcode byte is of one of three fault classes or is the opcode of an instruction, one of 34 bytes. -/
theorem opcode_cases : ∀ op : Byte, isReservedCount op = true ∨ isUnsupportedAlu op = true ∨ isUnrecognized op = true ∨
    op ∈ dispatchOpcodes ∨ op ∈ aluTable.map Prod.fst := by decide

end Sys2Proof
end

