-- ==== Sys2Proof/Laws/State.lean ====
section
/-! SUPPORT. One lemma per field per update of State, each true by rfl, so that no proof unfolds a record update. -/

namespace Sys2Proof.Machine

variable (s : State)

@[simp] theorem State.setReg_regs (i : Fin 8) (v : Byte) : (s.setReg i v).regs = s.regs.set i v := rfl
@[simp] theorem State.setReg_pc (i : Fin 8) (v : Byte) : (s.setReg i v).pc = s.pc := rfl
@[simp] theorem State.setReg_fl (i : Fin 8) (v : Byte) : (s.setReg i v).fl = s.fl := rfl
@[simp] theorem State.setReg_run (i : Fin 8) (v : Byte) : (s.setReg i v).run = s.run := rfl
@[simp] theorem State.setReg_fatal (i : Fin 8) (v : Byte) : (s.setReg i v).fatal = s.fatal := rfl
@[simp] theorem State.setReg_out (i : Fin 8) (v : Byte) : (s.setReg i v).out = s.out := rfl
@[simp] theorem State.setReg_mem (i : Fin 8) (v : Byte) : (s.setReg i v).mem = s.mem := rfl

@[simp] theorem State.setPc_regs (v : Byte) : (s.setPc v).regs = s.regs := rfl
@[simp] theorem State.setPc_pc (v : Byte) : (s.setPc v).pc = v := rfl
@[simp] theorem State.setPc_fl (v : Byte) : (s.setPc v).fl = s.fl := rfl
@[simp] theorem State.setPc_run (v : Byte) : (s.setPc v).run = s.run := rfl
@[simp] theorem State.setPc_fatal (v : Byte) : (s.setPc v).fatal = s.fatal := rfl
@[simp] theorem State.setPc_out (v : Byte) : (s.setPc v).out = s.out := rfl
@[simp] theorem State.setPc_mem (v : Byte) : (s.setPc v).mem = s.mem := rfl

@[simp] theorem State.setFl_regs (v : Byte) : (s.setFl v).regs = s.regs := rfl
@[simp] theorem State.setFl_pc (v : Byte) : (s.setFl v).pc = s.pc := rfl
@[simp] theorem State.setFl_fl (v : Byte) : (s.setFl v).fl = v := rfl
@[simp] theorem State.setFl_run (v : Byte) : (s.setFl v).run = s.run := rfl
@[simp] theorem State.setFl_fatal (v : Byte) : (s.setFl v).fatal = s.fatal := rfl
@[simp] theorem State.setFl_out (v : Byte) : (s.setFl v).out = s.out := rfl
@[simp] theorem State.setFl_mem (v : Byte) : (s.setFl v).mem = s.mem := rfl

@[simp] theorem State.emit_regs (v : Byte) : (s.emit v).regs = s.regs := rfl
@[simp] theorem State.emit_pc (v : Byte) : (s.emit v).pc = s.pc := rfl
@[simp] theorem State.emit_fl (v : Byte) : (s.emit v).fl = s.fl := rfl
@[simp] theorem State.emit_run (v : Byte) : (s.emit v).run = s.run := rfl
@[simp] theorem State.emit_fatal (v : Byte) : (s.emit v).fatal = s.fatal := rfl
@[simp] theorem State.emit_out (v : Byte) : (s.emit v).out = s.out ++ [v] := rfl
@[simp] theorem State.emit_mem (v : Byte) : (s.emit v).mem = s.mem := rfl

@[simp] theorem State.halt_regs : (s.halt).regs = s.regs := rfl
@[simp] theorem State.halt_pc : (s.halt).pc = s.pc := rfl
@[simp] theorem State.halt_fl : (s.halt).fl = s.fl := rfl
@[simp] theorem State.halt_run : (s.halt).run = .halted := rfl
@[simp] theorem State.halt_fatal : (s.halt).fatal = s.fatal := rfl
@[simp] theorem State.halt_out : (s.halt).out = s.out := rfl
@[simp] theorem State.halt_mem : (s.halt).mem = s.mem := rfl

@[simp] theorem State.writeMem_regs (a v : Byte) : (s.writeMem a v).regs = s.regs := rfl
@[simp] theorem State.writeMem_pc (a v : Byte) : (s.writeMem a v).pc = s.pc := rfl
@[simp] theorem State.writeMem_fl (a v : Byte) : (s.writeMem a v).fl = s.fl := rfl
@[simp] theorem State.writeMem_run (a v : Byte) : (s.writeMem a v).run = s.run := rfl
@[simp] theorem State.writeMem_fatal (a v : Byte) : (s.writeMem a v).fatal = s.fatal := rfl
@[simp] theorem State.writeMem_out (a v : Byte) : (s.writeMem a v).out = s.out := rfl
@[simp] theorem State.writeMem_mem (a v : Byte) : (s.writeMem a v).mem = Memory.writeAt s.mem a.toNat v := rfl

/-! The fatal error: run state and record change, nothing else (60_exceptions.md R185). -/

@[simp] theorem State.raiseFatal_regs (k : FatalKind) : (s.raiseFatal k).regs = s.regs := rfl
@[simp] theorem State.raiseFatal_pc (k : FatalKind) : (s.raiseFatal k).pc = s.pc := rfl
@[simp] theorem State.raiseFatal_fl (k : FatalKind) : (s.raiseFatal k).fl = s.fl := rfl
@[simp] theorem State.raiseFatal_run (k : FatalKind) : (s.raiseFatal k).run = .fatalError := rfl
@[simp] theorem State.raiseFatal_fatal (k : FatalKind) : (s.raiseFatal k).fatal = some (s.fatalRecord k) := rfl
@[simp] theorem State.raiseFatal_out (k : FatalKind) : (s.raiseFatal k).out = s.out := rfl
@[simp] theorem State.raiseFatal_mem (k : FatalKind) : (s.raiseFatal k).mem = s.mem := rfl

/-! The reads of registers and memory see only their own field. -/

theorem State.reg_congr {s t : State} (h : s.regs = t.regs) (i : Fin 8) : s.reg i = t.reg i := by simp [State.reg, h]

theorem State.sp_congr {s t : State} (h : s.regs = t.regs) : s.sp = t.sp := State.reg_congr h spIndex

theorem State.readMem_congr {s t : State} (h : s.mem = t.mem) (a : Byte) : s.readMem a = t.readMem a := by
  simp [State.readMem, h]

/-! Reading a register after a write. -/

theorem State.reg_setReg (i j : Fin 8) (v : Byte) : (s.setReg i v).reg j = if i = j then v else s.reg j := by
  simp only [State.reg, State.setReg, Fin.getElem_fin, Vector.getElem_set, Fin.ext_iff]

@[simp] theorem State.reg_setReg_same (i : Fin 8) (v : Byte) : (s.setReg i v).reg i = v := by simp [State.reg_setReg]

theorem State.reg_setReg_ne {i j : Fin 8} (h : i ≠ j) (v : Byte) : (s.setReg i v).reg j = s.reg j := by
  simp [State.reg_setReg, h]

@[simp] theorem State.sp_setSp (v : Byte) : (s.setSp v).sp = v := by simp [State.sp, State.setSp]

theorem State.reg_setSp (j : Fin 8) (v : Byte) : (s.setSp v).reg j = if j = spIndex then v else s.reg j := by
  simp [State.setSp, State.reg_setReg, eq_comm]

@[simp] theorem State.reg_setPc (v : Byte) (j : Fin 8) : (s.setPc v).reg j = s.reg j := rfl
@[simp] theorem State.sp_setPc (v : Byte) : (s.setPc v).sp = s.sp := rfl
@[simp] theorem State.readMem_setPc (v : Byte) (a : Byte) : (s.setPc v).readMem a = s.readMem a := rfl
@[simp] theorem State.reg_setFl (v : Byte) (j : Fin 8) : (s.setFl v).reg j = s.reg j := rfl
@[simp] theorem State.sp_setFl (v : Byte) : (s.setFl v).sp = s.sp := rfl
@[simp] theorem State.readMem_setFl (v : Byte) (a : Byte) : (s.setFl v).readMem a = s.readMem a := rfl
@[simp] theorem State.reg_emit (v : Byte) (j : Fin 8) : (s.emit v).reg j = s.reg j := rfl
@[simp] theorem State.sp_emit (v : Byte) : (s.emit v).sp = s.sp := rfl
@[simp] theorem State.readMem_emit (v : Byte) (a : Byte) : (s.emit v).readMem a = s.readMem a := rfl
@[simp] theorem State.reg_halt (j : Fin 8) : (s.halt).reg j = s.reg j := rfl
@[simp] theorem State.sp_halt : (s.halt).sp = s.sp := rfl
@[simp] theorem State.readMem_halt (a : Byte) : (s.halt).readMem a = s.readMem a := rfl
@[simp] theorem State.reg_writeMem (a v : Byte) (j : Fin 8) : (s.writeMem a v).reg j = s.reg j := rfl
@[simp] theorem State.sp_writeMem (a v : Byte) : (s.writeMem a v).sp = s.sp := rfl
@[simp] theorem State.readMem_setReg (i : Fin 8) (v a : Byte) : (s.setReg i v).readMem a = s.readMem a := rfl
@[simp] theorem State.readMem_setSp (v a : Byte) : (s.setSp v).readMem a = s.readMem a := rfl
@[simp] theorem State.setSp_pc (v : Byte) : (s.setSp v).pc = s.pc := rfl
@[simp] theorem State.setSp_fl (v : Byte) : (s.setSp v).fl = s.fl := rfl
@[simp] theorem State.setSp_run (v : Byte) : (s.setSp v).run = s.run := rfl
@[simp] theorem State.setSp_fatal (v : Byte) : (s.setSp v).fatal = s.fatal := rfl
@[simp] theorem State.setSp_out (v : Byte) : (s.setSp v).out = s.out := rfl
@[simp] theorem State.setSp_mem (v : Byte) : (s.setSp v).mem = s.mem := rfl

/-! The sequencer's advance changes at most pc (30_encoding.md R71, R72). -/

@[simp] theorem State.autoAdvance_regs (op : Byte) : (s.autoAdvance op).regs = s.regs := by
  unfold State.autoAdvance; split <;> rfl
@[simp] theorem State.autoAdvance_fl (op : Byte) : (s.autoAdvance op).fl = s.fl := by
  unfold State.autoAdvance; split <;> rfl
@[simp] theorem State.autoAdvance_run (op : Byte) : (s.autoAdvance op).run = s.run := by
  unfold State.autoAdvance; split <;> rfl
@[simp] theorem State.autoAdvance_fatal (op : Byte) : (s.autoAdvance op).fatal = s.fatal := by
  unfold State.autoAdvance; split <;> rfl
@[simp] theorem State.autoAdvance_out (op : Byte) : (s.autoAdvance op).out = s.out := by
  unfold State.autoAdvance; split <;> rfl
@[simp] theorem State.autoAdvance_mem (op : Byte) : (s.autoAdvance op).mem = s.mem := by
  unfold State.autoAdvance; split <;> rfl

theorem State.autoAdvance_pc (op : Byte) : (s.autoAdvance op).pc = if opSetpc op then s.pc else s.nextPc op := by
  unfold State.autoAdvance; split <;> rfl

@[simp] theorem State.reg_autoAdvance (op : Byte) (j : Fin 8) : (s.autoAdvance op).reg j = s.reg j :=
  State.reg_congr (by simp) j
@[simp] theorem State.sp_autoAdvance (op : Byte) : (s.autoAdvance op).sp = s.sp := State.sp_congr (by simp)
@[simp] theorem State.readMem_autoAdvance (op a : Byte) : (s.autoAdvance op).readMem a = s.readMem a :=
  State.readMem_congr (by simp) a

end Sys2Proof.Machine
end

