-- ==== Sys2Proof/Laws/Memory.lean ====
section
/-! SUPPORT. Memory: a read after a write, and the canonical form that every memory operation keeps (log 19). -/

namespace Sys2Proof.Machine

/-! ## Reads -/

theorem Memory.readAt_erase (m : Memory) (a b : Nat) :
    Memory.readAt (Memory.erase m a) b = if b = a then Config.memReset else Memory.readAt m b := by
  induction m with
  | nil => simp [Memory.erase, Memory.readAt]
  | cons c m ih =>
    obtain ⟨k, v⟩ := c
    simp only [Memory.erase] at ih
    by_cases hk : k = a
    · subst hk; by_cases hb : b = k <;> simp_all [Memory.erase, Memory.readAt]
    · by_cases hb : b = k
      · subst hb; simp [Memory.erase, Memory.readAt, hk]
      · simp_all [Memory.erase, Memory.readAt]

theorem Memory.readAt_insert_same (m : Memory) (a : Nat) (v : Byte) (h : ∀ c ∈ m, c.1 ≠ a) :
    Memory.readAt (Memory.insert m a v) a = v := by
  induction m with
  | nil => simp [Memory.insert, Memory.readAt]
  | cons c m ih =>
    obtain ⟨k, w⟩ := c
    have hk : a ≠ k := fun e => h (k, w) (by simp) e.symm
    have ih := ih fun c hc => h c (by simp [hc])
    unfold Memory.insert
    split <;> simp [Memory.readAt, hk, ih]

theorem Memory.readAt_insert_ne (m : Memory) {a b : Nat} (v : Byte) (h : b ≠ a) :
    Memory.readAt (Memory.insert m a v) b = Memory.readAt m b := by
  induction m with
  | nil => simp [Memory.insert, Memory.readAt, h]
  | cons c m ih =>
    obtain ⟨k, w⟩ := c
    unfold Memory.insert
    split
    · simp [Memory.readAt, h]
    · simp [Memory.readAt, ih]

theorem Memory.erase_no_key (m : Memory) (a : Nat) : ∀ c ∈ Memory.erase m a, c.1 ≠ a := by
  intro c hc; simpa using (List.mem_filter.mp hc).2

/-- Reading one byte after a write, for every list, canonical or not. -/
theorem Memory.readAt_writeAt (m : Memory) (a b : Nat) (v : Byte) :
    Memory.readAt (Memory.writeAt m a v) b = if b = a then v else Memory.readAt m b := by
  unfold Memory.writeAt
  split
  · next hv => simp [Memory.readAt_erase, hv]
  · by_cases hb : b = a
    · subst hb; simp [Memory.readAt_insert_same _ _ _ (Memory.erase_no_key m b)]
    · simp [Memory.readAt_insert_ne _ v hb, Memory.readAt_erase, hb]

theorem State.readMem_writeMem (s : State) (a b v : Byte) :
    (s.writeMem a v).readMem b = if b = a then v else s.readMem b := by
  simp [State.readMem, State.writeMem, Memory.readAt_writeAt, ← BitVec.toNat_inj]

/-! ## The canonical form -/

/-- The canonical form above a bound, one entry unfolded. -/
theorem Memory.wfAbove_cons (lo : Option Nat) (k : Nat) (v : Byte) (m : Memory) :
    Memory.wfAbove lo ((k, v) :: m) = true ↔
      (∀ l, lo = some l → l < k) ∧ k < Config.memSize ∧ v ≠ Config.memReset ∧ Memory.wfAbove (some k) m = true := by
  cases lo <;> simp [Memory.wfAbove, and_assoc]

theorem Memory.wfAbove_weaken {lo lo' : Option Nat} (h : ∀ l, lo' = some l → ∃ k, lo = some k ∧ l ≤ k) {m : Memory}
    (hm : Memory.wfAbove lo m = true) : Memory.wfAbove lo' m = true := by
  cases m with
  | nil => simp [Memory.wfAbove]
  | cons c m =>
    obtain ⟨k, v⟩ := c
    rw [Memory.wfAbove_cons] at hm ⊢
    refine ⟨fun l hl => ?_, hm.2⟩
    obtain ⟨k', hk', hle⟩ := h l hl
    exact Nat.lt_of_le_of_lt hle (hm.1 k' hk')

theorem Memory.wfAbove_erase {lo : Option Nat} {m : Memory} (a : Nat) (hm : Memory.wfAbove lo m = true) :
    Memory.wfAbove lo (Memory.erase m a) = true := by
  induction m generalizing lo with
  | nil => simp [Memory.erase, Memory.wfAbove]
  | cons c m ih =>
    obtain ⟨k, v⟩ := c
    rw [Memory.wfAbove_cons] at hm
    have ih' := ih hm.2.2.2
    by_cases hk : k = a
    · have : Memory.erase ((k, v) :: m) a = Memory.erase m a := by simp [Memory.erase, hk]
      rw [this]
      exact Memory.wfAbove_weaken (fun l hl => ⟨k, rfl, Nat.le_of_lt (hm.1 l hl)⟩) ih'
    · have : Memory.erase ((k, v) :: m) a = (k, v) :: Memory.erase m a := by simp [Memory.erase, hk]
      rw [this, Memory.wfAbove_cons]
      exact ⟨hm.1, hm.2.1, hm.2.2.1, ih'⟩

theorem Memory.wfAbove_insert {lo : Option Nat} {m : Memory} {a : Nat} {v : Byte} (hm : Memory.wfAbove lo m = true)
    (ha : a < Config.memSize) (hv : v ≠ Config.memReset) (hlo : ∀ l, lo = some l → l < a) (hno : ∀ c ∈ m, c.1 ≠ a) :
    Memory.wfAbove lo (Memory.insert m a v) = true := by
  induction m generalizing lo with
  | nil => exact (Memory.wfAbove_cons lo a v []).mpr ⟨hlo, ha, hv, rfl⟩
  | cons c m ih =>
    obtain ⟨k, w⟩ := c
    have hk : k ≠ a := hno (k, w) (by simp)
    rw [Memory.wfAbove_cons] at hm
    unfold Memory.insert
    split
    · next h =>
      rw [Memory.wfAbove_cons, Memory.wfAbove_cons]
      exact ⟨hlo, ha, hv, by simpa using h, hm.2⟩
    · next h =>
      rw [Memory.wfAbove_cons]
      exact ⟨hm.1, hm.2.1, hm.2.2.1,
        ih hm.2.2.2 (by simp; omega) fun c hc => hno c (by simp [hc])⟩

/-- A write keeps the canonical form. -/
theorem Memory.wf_writeAt {m : Memory} {a : Nat} (v : Byte) (hm : Memory.wf m = true) (ha : a < Config.memSize) :
    Memory.wf (Memory.writeAt m a v) = true := by
  unfold Memory.writeAt
  split
  · exact Memory.wfAbove_erase a hm
  · next hv => exact Memory.wfAbove_insert (Memory.wfAbove_erase a hm) ha hv (by simp) (Memory.erase_no_key m a)

theorem State.wf_writeMem {s : State} (a v : Byte) (hs : Memory.wf s.mem = true) :
    Memory.wf (s.writeMem a v).mem = true := Memory.wf_writeAt v hs a.isLt

theorem reset_memory_wf : Memory.wf State.reset.mem = true := rfl

end Sys2Proof.Machine
end

