-- ==== Sys2Proof/Laws/Exec.lean ====
section
/-! SUPPORT. One lemma per shared operation that says what it does, and the inversion lemma of exec: every way an
instruction can end. -/

namespace Sys2Proof.Machine

open Host (Outcome)

/-! ## Register operands (30_encoding.md R65) -/

theorem regIndex_valid {r : Byte} (h : r.toNat < 8) : regIndex r = some ⟨r.toNat, h⟩ := by simp [regIndex, h]

theorem regIndex_invalid {r : Byte} (h : 8 ≤ r.toNat) : regIndex r = none := by
  simp [regIndex, Nat.not_lt.mpr h]

theorem withReg_valid {r : Byte} {i : Fin 8} (h : r.toNat = i.val) (s : State)
    (k : Fin 8 → Outcome State Fault Refusal) : withReg r s k = k i := by
  have hr : r.toNat < 8 := h ▸ i.isLt
  have hi : (⟨r.toNat, hr⟩ : Fin 8) = i := Fin.ext h
  simp [withReg, regIndex_valid hr, hi]

theorem withReg_invalid {r : Byte} (h : 8 ≤ r.toNat) (s : State) (k : Fin 8 → Outcome State Fault Refusal) :
    withReg r s k = .next (s.raiseFatal .invalidRegisterIndex) := by
  simp [withReg, regIndex_invalid h]

/-- Everything `withReg` can do. -/
theorem withReg_cases (r : Byte) (s : State) (k : Fin 8 → Outcome State Fault Refusal) :
    (∃ i : Fin 8, r.toNat = i.val ∧ withReg r s k = k i) ∨
    (8 ≤ r.toNat ∧ withReg r s k = .next (s.raiseFatal .invalidRegisterIndex)) := by
  by_cases h : r.toNat < 8
  · exact .inl ⟨⟨r.toNat, h⟩, rfl, withReg_valid rfl s k⟩
  · exact .inr ⟨by omega, withReg_invalid (by omega) s k⟩

/-! ## The push -/

variable (s : State) (f : State → Byte)

@[simp] theorem State.pushWith_pc : (s.pushWith f).pc = s.pc := rfl
@[simp] theorem State.pushWith_fl : (s.pushWith f).fl = s.fl := rfl
@[simp] theorem State.pushWith_run : (s.pushWith f).run = s.run := rfl
@[simp] theorem State.pushWith_fatal : (s.pushWith f).fatal = s.fatal := rfl
@[simp] theorem State.pushWith_out : (s.pushWith f).out = s.out := rfl

@[simp] theorem State.pushWith_regs : (s.pushWith f).regs = (s.setSp (s.sp - 1)).regs := rfl

@[simp] theorem State.pushWith_reg (j : Fin 8) : (s.pushWith f).reg j = (s.setSp (s.sp - 1)).reg j := rfl

@[simp] theorem State.pushWith_sp : (s.pushWith f).sp = s.sp - 1 := by
  rw [State.sp, State.pushWith_reg]; exact State.sp_setSp s _

theorem State.pushWith_readMem (a : Byte) :
    (s.pushWith f).readMem a = if a = s.sp - 1 then f (s.setSp (s.sp - 1)) else s.readMem a := by
  simp [State.pushWith, State.readMem_writeMem]

theorem State.pushWith_wf (h : Memory.wf s.mem = true) : Memory.wf (s.pushWith f).mem = true :=
  State.wf_writeMem _ _ (by simpa using h)

/-! ## The pop's increment -/

@[simp] theorem State.incSp_pc : s.incSp.pc = s.pc := rfl
@[simp] theorem State.incSp_fl : s.incSp.fl = s.fl := rfl
@[simp] theorem State.incSp_run : s.incSp.run = s.run := rfl
@[simp] theorem State.incSp_fatal : s.incSp.fatal = s.fatal := rfl
@[simp] theorem State.incSp_out : s.incSp.out = s.out := rfl
@[simp] theorem State.incSp_mem : s.incSp.mem = s.mem := rfl
@[simp] theorem State.incSp_readMem (a : Byte) : s.incSp.readMem a = s.readMem a := rfl
@[simp] theorem State.incSp_sp : s.incSp.sp = s.sp + 1 := by simp [State.incSp]

theorem State.incSp_reg (j : Fin 8) : s.incSp.reg j = if j = spIndex then s.sp + 1 else s.reg j := by
  simp [State.incSp, State.reg_setSp]

/-! ## The comparison -/

/-- A comparison writes exactly one flag (40_alu.md R104). -/
theorem compareFlags_cases (va vb : Byte) :
    compareFlags va vb = flEqual ∨ compareFlags va vb = flGreater ∨ compareFlags va vb = flLess := by
  unfold compareFlags; split
  · exact .inl rfl
  · split
    · exact .inr (.inr rfl)
    · exact .inr (.inl rfl)

/-! ## The ALU step -/

/-- An ALU step whose two register operands are valid: the routine, then the advance. -/
theorem aluStep_valid (o : AluOp) (op : Byte) {oa ob : Byte} {a b : Fin 8} (ha : oa.toNat = a.val)
    (hb : ob.toNat = b.val) (s : State) : aluStep o op oa ob s = .next ((aluRoutine o a b s).autoAdvance op) := by
  unfold aluStep; rw [withReg_valid ha, withReg_valid hb]

/-- An ALU step with an invalid register operand, in either place. -/
theorem aluStep_invalid (o : AluOp) (op : Byte) {oa ob : Byte} (h : 8 ≤ oa.toNat ∨ 8 ≤ ob.toNat) (s : State) :
    aluStep o op oa ob s = .next (s.raiseFatal .invalidRegisterIndex) := by
  unfold aluStep
  by_cases ha : 8 ≤ oa.toNat
  · exact withReg_invalid ha s _
  · rw [withReg_valid (i := ⟨oa.toNat, by omega⟩) rfl]; exact withReg_invalid (h.resolve_left ha) s _

/-! ## The inversion lemma of exec -/

/-- The ways a routine changes the state, before the sequencer's advance. -/
inductive Routine (s : State) : State → Prop where
  | halt : Routine s s.halt
  | setReg (i : Fin 8) (v : Byte) : Routine s (s.setReg i v)
  | compare (va vb : Byte) : Routine s (s.setFl (compareFlags va vb))
  | emit (v : Byte) : Routine s (s.emit v)
  | push (f : State → Byte) : Routine s (s.pushWith f)
  | pop (i : Fin 8) : Routine s (s.setReg i s.top).incSp
  | call (f : State → Byte) (v : Byte) : Routine s ((s.pushWith f).setPc v)
  | ret : Routine s (s.setPc s.top).incSp
  | jump (v : Byte) : Routine s (s.setPc v)

theorem aluRoutine_routine (o : AluOp) (a b : Fin 8) (s : State) : Routine s (aluRoutine o a b s) := by
  cases o
  · exact .setReg a _
  · exact .setReg a _
  · exact .setReg a _
  · exact .compare _ _

theorem branchIf_routine (taken : Bool) (op : Byte) (a : Fin 8) (s : State) : Routine s (branchIf taken op a s) := by
  unfold branchIf; split <;> exact .jump _

/-- How an instruction ends: a fatal error of a kind the core raises, or a routine and then the advance. -/
abbrev ExecEnds (s : State) (o : Outcome State Fault Refusal) : Prop :=
  (∃ k, k ≠ .programLoadFailure ∧ o = .next (s.raiseFatal k)) ∨
  ∃ s' op, Routine s s' ∧ o = .next (s'.autoAdvance op)

theorem withReg_ends {r : Byte} {s : State} {k : Fin 8 → Outcome State Fault Refusal}
    (h : ∀ i, ExecEnds s (k i)) : ExecEnds s (withReg r s k) := by
  rcases withReg_cases r s k with ⟨i, -, e⟩ | ⟨-, e⟩
  · rw [e]; exact h i
  · exact .inl ⟨.invalidRegisterIndex, by decide, e⟩

theorem aluStep_ends (o : AluOp) (op oa ob : Byte) (s : State) : ExecEnds s (aluStep o op oa ob s) :=
  withReg_ends fun a => withReg_ends fun b => .inr ⟨_, op, aluRoutine_routine o a b s, rfl⟩

/-- Every way an instruction can end. -/
theorem exec_ends (i : Instr) (s : State) : ExecEnds s (exec i s) := by
  cases i
  case halt => exact .inr ⟨_, _, .halt, rfl⟩
  case load oa imm => exact withReg_ends fun a => .inr ⟨_, _, .setReg a imm, rfl⟩
  case print oa => exact withReg_ends fun a => .inr ⟨_, _, .emit _, rfl⟩
  case push oa => exact withReg_ends fun a => .inr ⟨_, _, .push _, rfl⟩
  case pop oa => exact withReg_ends fun a => .inr ⟨_, _, .pop a, rfl⟩
  case call oa => exact withReg_ends fun a => .inr ⟨_, _, .call _ _, rfl⟩
  case ret => exact .inr ⟨_, _, .ret, rfl⟩
  case jmp oa => exact withReg_ends fun a => .inr ⟨_, _, .jump _, rfl⟩
  case jeq oa => exact withReg_ends fun a => .inr ⟨_, _, branchIf_routine _ _ a s, rfl⟩
  case jne oa => exact withReg_ends fun a => .inr ⟨_, _, branchIf_routine _ _ a s, rfl⟩
  case reservedOperandCount op => exact .inl ⟨.unrecognizedOpcode, by decide, rfl⟩
  case aluUnsupportedIdentifier op => exact .inl ⟨.unsupportedOperation, by decide, rfl⟩
  case unrecognized op => exact .inl ⟨.unrecognizedOpcode, by decide, rfl⟩
  all_goals exact aluStep_ends _ _ _ _ s

/-! ## The step -/

theorem step_running {s : State} (h : s.run = .running) : step s = exec s.fetch s := by simp [step, h]

theorem step_ended {s : State} (h : s.run ≠ .running) : step s = .next s := by
  cases hr : s.run <;> simp_all [step]

/-- The fetch reads pc and the bytes at pc, pc + 1 and pc + 2. -/
theorem State.fetch_congr {s t : State} (hpc : s.pc = t.pc) (h0 : s.readMem s.pc = t.readMem s.pc)
    (h1 : s.readMem (s.pc + 1) = t.readMem (s.pc + 1)) (h2 : s.readMem (s.pc + 2) = t.readMem (s.pc + 2)) :
    s.fetch = t.fetch := by
  rw [State.fetch, State.fetch, h0, h1, h2, hpc]

end Sys2Proof.Machine
end

