-- ==== Sys2Proof/Laws/Inversion.lean ====
section
/-! SUPPORT. The inversion of exec by instruction, with every instruction's own way to end, and the forward form for an
instruction whose register operands are valid. -/

namespace Sys2Proof.Machine

open Host (Outcome)

theorem next_inj {s t : State} (h : (.next s : Outcome State Fault Refusal) = .next t) : s = t := by cases h; rfl

theorem withReg_next {r : Byte} {s t : State} {k : Fin 8 → Outcome State Fault Refusal} (h : withReg r s k = .next t) :
    (∃ i : Fin 8, r.toNat = i.val ∧ k i = .next t) ∨ t = s.raiseFatal .invalidRegisterIndex := by
  rcases withReg_cases r s k with ⟨i, hi, e⟩ | ⟨-, e⟩
  · exact .inl ⟨i, hi, e ▸ h⟩
  · exact .inr (next_inj (e ▸ h)).symm

theorem aluStep_next {o : AluOp} {op oa ob : Byte} {s t : State} (h : aluStep o op oa ob s = .next t) :
    (∃ a b : Fin 8, oa.toNat = a.val ∧ ob.toNat = b.val ∧ t = (aluRoutine o a b s).autoAdvance op) ∨
    t = s.raiseFatal .invalidRegisterIndex := by
  rcases withReg_next h with ⟨a, ha, h⟩ | h
  · rcases withReg_next h with ⟨b, hb, h⟩ | h
    · exact .inl ⟨a, b, ha, hb, (next_inj h).symm⟩
    · exact .inr h
  · exact .inr h

/-- The state an instruction `i` ends in from `s`, by instruction. -/
inductive EndsIn (i : Instr) (s : State) : State → Prop where
  | fatal (k : FatalKind) : EndsIn i s (s.raiseFatal k)
  | halt : i = .halt → EndsIn i s (s.halt.autoAdvance opHalt)
  | load (oa imm : Byte) (a : Fin 8) : i = .load oa imm → oa.toNat = a.val →
      EndsIn i s ((s.setReg a imm).autoAdvance opLoad)
  | print (oa : Byte) (a : Fin 8) : i = .print oa → oa.toNat = a.val → EndsIn i s ((s.emit (s.reg a)).autoAdvance opPrint)
  | push (oa : Byte) (a : Fin 8) : i = .push oa → oa.toNat = a.val →
      EndsIn i s ((s.pushWith fun s₁ => s₁.reg a).autoAdvance opPush)
  | pop (oa : Byte) (a : Fin 8) : i = .pop oa → oa.toNat = a.val →
      EndsIn i s ((s.setReg a s.top).incSp.autoAdvance opPop)
  | call (oa : Byte) (a : Fin 8) : i = .call oa → oa.toNat = a.val →
      EndsIn i s (((s.pushWith fun s₀ => s₀.pc + 2).setPc ((s.pushWith fun s₀ => s₀.pc + 2).reg a)).autoAdvance opCall)
  | ret : i = .ret → EndsIn i s ((s.setPc s.top).incSp.autoAdvance opRet)
  | jmp (oa : Byte) (a : Fin 8) : i = .jmp oa → oa.toNat = a.val → EndsIn i s ((s.setPc (s.reg a)).autoAdvance opJmp)
  | jeq (oa : Byte) (a : Fin 8) : i = .jeq oa → oa.toNat = a.val →
      EndsIn i s ((branchIf s.flagE opJeq a s).autoAdvance opJeq)
  | jne (oa : Byte) (a : Fin 8) : i = .jne oa → oa.toNat = a.val →
      EndsIn i s ((branchIf (!s.flagE) opJne a s).autoAdvance opJne)
  | alu (o : AluOp) (oa ob : Byte) (a b : Fin 8) : i.aluOp = some o → i.operandBytes = [oa, ob] → oa.toNat = a.val →
      ob.toNat = b.val → EndsIn i s ((aluRoutine o a b s).autoAdvance i.opcode)

/-- Every way exec can answer a next state, by instruction. -/
theorem exec_endsIn {i : Instr} {s t : State} (h : exec i s = .next t) : EndsIn i s t := by
  cases i
  case halt => cases h; exact .halt rfl
  case ret => cases h; exact .ret rfl
  case reservedOperandCount => cases h; exact .fatal _
  case aluUnsupportedIdentifier => cases h; exact .fatal _
  case unrecognized => cases h; exact .fatal _
  case load oa imm =>
    obtain ⟨a, ha, h⟩ | rfl := withReg_next h
    · cases h; exact .load _ _ a rfl ha
    · exact .fatal _
  case print oa =>
    obtain ⟨a, ha, h⟩ | rfl := withReg_next h
    · cases h; exact .print _ a rfl ha
    · exact .fatal _
  case push oa =>
    obtain ⟨a, ha, h⟩ | rfl := withReg_next h
    · cases h; exact .push _ a rfl ha
    · exact .fatal _
  case pop oa =>
    obtain ⟨a, ha, h⟩ | rfl := withReg_next h
    · cases h; exact .pop _ a rfl ha
    · exact .fatal _
  case call oa =>
    obtain ⟨a, ha, h⟩ | rfl := withReg_next h
    · cases h; exact .call _ a rfl ha
    · exact .fatal _
  case jmp oa =>
    obtain ⟨a, ha, h⟩ | rfl := withReg_next h
    · cases h; exact .jmp _ a rfl ha
    · exact .fatal _
  case jeq oa =>
    obtain ⟨a, ha, h⟩ | rfl := withReg_next h
    · cases h; exact .jeq _ a rfl ha
    · exact .fatal _
  case jne oa =>
    obtain ⟨a, ha, h⟩ | rfl := withReg_next h
    · cases h; exact .jne _ a rfl ha
    · exact .fatal _
  all_goals
    obtain ⟨a, b, ha, hb, rfl⟩ | rfl := aluStep_next h
    · exact .alu _ _ _ a b rfl rfl ha hb
    · exact .fatal _

/-- A valid register operand names a register. -/
theorem registersValid_index {i : Instr} (h : i.registersValid = true) {r : Byte} (hr : r ∈ i.registerOperands) :
    ∃ a : Fin 8, r.toNat = a.val := by
  have hlt := List.all_eq_true.mp h r hr
  exact ⟨⟨r.toNat, by simpa using hlt⟩, rfl⟩

/-- An instruction that is no fault class, its register operands valid, answers a routine and then the advance by its own
opcode byte; only a routine of an opcode with setpc = 1 off the ALU path writes pc. -/
theorem exec_valid {i : Instr} (s : State) (hv : i.registersValid = true) (hf : i.faultKind = none) :
    ∃ s', Routine s s' ∧ exec i s = .next (s'.autoAdvance i.opcode) ∧
      (s'.pc = s.pc ∨ (opSetpc i.opcode = true ∧ opAlu i.opcode = false)) := by
  have index {r : Byte} (hr : r ∈ i.registerOperands) := registersValid_index hv hr
  cases i
  case halt => exact ⟨_, .halt, rfl, .inl rfl⟩
  case ret => exact ⟨_, .ret, rfl, .inr ⟨by decide, by decide⟩⟩
  case load oa imm =>
    obtain ⟨a, ha⟩ := index (.head _)
    exact ⟨_, .setReg a imm, withReg_valid ha _ _, .inl rfl⟩
  case print oa =>
    obtain ⟨a, ha⟩ := index (.head _)
    exact ⟨_, .emit _, withReg_valid ha _ _, .inl rfl⟩
  case push oa =>
    obtain ⟨a, ha⟩ := index (.head _)
    exact ⟨_, .push _, withReg_valid ha _ _, .inl rfl⟩
  case pop oa =>
    obtain ⟨a, ha⟩ := index (.head _)
    exact ⟨_, .pop a, withReg_valid ha _ _, .inl rfl⟩
  case call oa =>
    obtain ⟨a, ha⟩ := index (.head _)
    exact ⟨_, .call _ _, withReg_valid ha _ _, .inr ⟨(by decide : opSetpc opCall = true), (by decide : opAlu opCall = false)⟩⟩
  case jmp oa =>
    obtain ⟨a, ha⟩ := index (.head _)
    exact ⟨_, .jump _, withReg_valid ha _ _, .inr ⟨(by decide : opSetpc opJmp = true), (by decide : opAlu opJmp = false)⟩⟩
  case jeq oa =>
    obtain ⟨a, ha⟩ := index (.head _)
    exact ⟨_, branchIf_routine _ _ a s, withReg_valid ha _ _, .inr ⟨(by decide : opSetpc opJeq = true), (by decide : opAlu opJeq = false)⟩⟩
  case jne oa =>
    obtain ⟨a, ha⟩ := index (.head _)
    exact ⟨_, branchIf_routine _ _ a s, withReg_valid ha _ _, .inr ⟨(by decide : opSetpc opJne = true), (by decide : opAlu opJne = false)⟩⟩
  case reservedOperandCount => cases hf
  case aluUnsupportedIdentifier => cases hf
  case unrecognized => cases hf
  all_goals
    obtain ⟨a, ha⟩ := index (.head _)
    obtain ⟨b, hb⟩ := index (.tail _ (.head _))
    exact ⟨_, aluRoutine_routine _ a b s, aluStep_valid _ _ ha hb s, .inl rfl⟩

end Sys2Proof.Machine
end

