-- ==== Sys2Proof/Laws/PerInstr.lean ====
section
/-! SUPPORT. The family EncodingShape, per instruction: what the bytes of an instruction look like. -/

namespace Sys2Proof.Laws.EncodingShape

/-- The encoding starts with the opcode byte and is at most three bytes long; the bytes of a canonical or fault-class
instruction never run past the length its opcode byte gives, unless it is an ALU opcode, which reads two operand bytes
whatever its length (30_encoding.md R60, R64, R74). -/
def Statement (i : Instr) : Prop :=
  (encode i).head? = some i.opcode ∧ (encode i).length ≤ 3 ∧
    (opAlu i.opcode = false → (encode i).length ≤ opLength i.opcode) ∧
    i.registerOperands.length + 1 ≤ (encode i).length

theorem halt : Statement .halt :=
  ⟨rfl, Nat.le_of_ble_eq_true rfl, fun _ => (by decide : 1 ≤ opLength opHalt), Nat.le_of_ble_eq_true rfl⟩
theorem load (oa imm : Byte) : Statement (.load oa imm) :=
  ⟨rfl, Nat.le_of_ble_eq_true rfl, fun _ => (by decide : 3 ≤ opLength opLoad), Nat.le_of_ble_eq_true rfl⟩
theorem print (oa : Byte) : Statement (.print oa) :=
  ⟨rfl, Nat.le_of_ble_eq_true rfl, fun _ => (by decide : 2 ≤ opLength opPrint), Nat.le_of_ble_eq_true rfl⟩
theorem push (oa : Byte) : Statement (.push oa) :=
  ⟨rfl, Nat.le_of_ble_eq_true rfl, fun _ => (by decide : 2 ≤ opLength opPush), Nat.le_of_ble_eq_true rfl⟩
theorem pop (oa : Byte) : Statement (.pop oa) :=
  ⟨rfl, Nat.le_of_ble_eq_true rfl, fun _ => (by decide : 2 ≤ opLength opPop), Nat.le_of_ble_eq_true rfl⟩
theorem call (oa : Byte) : Statement (.call oa) :=
  ⟨rfl, Nat.le_of_ble_eq_true rfl, fun _ => (by decide : 2 ≤ opLength opCall), Nat.le_of_ble_eq_true rfl⟩
theorem ret : Statement .ret :=
  ⟨rfl, Nat.le_of_ble_eq_true rfl, fun _ => (by decide : 1 ≤ opLength opRet), Nat.le_of_ble_eq_true rfl⟩
theorem jmp (oa : Byte) : Statement (.jmp oa) :=
  ⟨rfl, Nat.le_of_ble_eq_true rfl, fun _ => (by decide : 2 ≤ opLength opJmp), Nat.le_of_ble_eq_true rfl⟩
theorem jeq (oa : Byte) : Statement (.jeq oa) :=
  ⟨rfl, Nat.le_of_ble_eq_true rfl, fun _ => (by decide : 2 ≤ opLength opJeq), Nat.le_of_ble_eq_true rfl⟩
theorem jne (oa : Byte) : Statement (.jne oa) :=
  ⟨rfl, Nat.le_of_ble_eq_true rfl, fun _ => (by decide : 2 ≤ opLength opJne), Nat.le_of_ble_eq_true rfl⟩
theorem add (oa ob : Byte) : Statement (.add oa ob) :=
  ⟨rfl, Nat.le_of_ble_eq_true rfl, fun h => absurd h (by decide : ¬ opAlu opAdd = false), Nat.le_of_ble_eq_true rfl⟩
theorem sub (oa ob : Byte) : Statement (.sub oa ob) :=
  ⟨rfl, Nat.le_of_ble_eq_true rfl, fun h => absurd h (by decide : ¬ opAlu opSub = false), Nat.le_of_ble_eq_true rfl⟩
theorem mul (oa ob : Byte) : Statement (.mul oa ob) :=
  ⟨rfl, Nat.le_of_ble_eq_true rfl, fun h => absurd h (by decide : ¬ opAlu opMul = false), Nat.le_of_ble_eq_true rfl⟩
theorem cmp (oa ob : Byte) : Statement (.cmp oa ob) :=
  ⟨rfl, Nat.le_of_ble_eq_true rfl, fun h => absurd h (by decide : ¬ opAlu opCmp = false), Nat.le_of_ble_eq_true rfl⟩
theorem addAlias20 (oa ob : Byte) : Statement (.addAlias20 oa ob) :=
  ⟨rfl, Nat.le_of_ble_eq_true rfl, fun h => absurd h (by decide : ¬ opAlu 0x20 = false), Nat.le_of_ble_eq_true rfl⟩
theorem subAlias21 (oa ob : Byte) : Statement (.subAlias21 oa ob) :=
  ⟨rfl, Nat.le_of_ble_eq_true rfl, fun h => absurd h (by decide : ¬ opAlu 0x21 = false), Nat.le_of_ble_eq_true rfl⟩
theorem mulAlias22 (oa ob : Byte) : Statement (.mulAlias22 oa ob) :=
  ⟨rfl, Nat.le_of_ble_eq_true rfl, fun h => absurd h (by decide : ¬ opAlu 0x22 = false), Nat.le_of_ble_eq_true rfl⟩
theorem cmpAlias27 (oa ob : Byte) : Statement (.cmpAlias27 oa ob) :=
  ⟨rfl, Nat.le_of_ble_eq_true rfl, fun h => absurd h (by decide : ¬ opAlu 0x27 = false), Nat.le_of_ble_eq_true rfl⟩
theorem addAlias30 (oa ob : Byte) : Statement (.addAlias30 oa ob) :=
  ⟨rfl, Nat.le_of_ble_eq_true rfl, fun h => absurd h (by decide : ¬ opAlu 0x30 = false), Nat.le_of_ble_eq_true rfl⟩
theorem subAlias31 (oa ob : Byte) : Statement (.subAlias31 oa ob) :=
  ⟨rfl, Nat.le_of_ble_eq_true rfl, fun h => absurd h (by decide : ¬ opAlu 0x31 = false), Nat.le_of_ble_eq_true rfl⟩
theorem mulAlias32 (oa ob : Byte) : Statement (.mulAlias32 oa ob) :=
  ⟨rfl, Nat.le_of_ble_eq_true rfl, fun h => absurd h (by decide : ¬ opAlu 0x32 = false), Nat.le_of_ble_eq_true rfl⟩
theorem cmpAlias37 (oa ob : Byte) : Statement (.cmpAlias37 oa ob) :=
  ⟨rfl, Nat.le_of_ble_eq_true rfl, fun h => absurd h (by decide : ¬ opAlu 0x37 = false), Nat.le_of_ble_eq_true rfl⟩
theorem addAlias60 (oa ob : Byte) : Statement (.addAlias60 oa ob) :=
  ⟨rfl, Nat.le_of_ble_eq_true rfl, fun h => absurd h (by decide : ¬ opAlu 0x60 = false), Nat.le_of_ble_eq_true rfl⟩
theorem subAlias61 (oa ob : Byte) : Statement (.subAlias61 oa ob) :=
  ⟨rfl, Nat.le_of_ble_eq_true rfl, fun h => absurd h (by decide : ¬ opAlu 0x61 = false), Nat.le_of_ble_eq_true rfl⟩
theorem mulAlias62 (oa ob : Byte) : Statement (.mulAlias62 oa ob) :=
  ⟨rfl, Nat.le_of_ble_eq_true rfl, fun h => absurd h (by decide : ¬ opAlu 0x62 = false), Nat.le_of_ble_eq_true rfl⟩
theorem cmpAlias67 (oa ob : Byte) : Statement (.cmpAlias67 oa ob) :=
  ⟨rfl, Nat.le_of_ble_eq_true rfl, fun h => absurd h (by decide : ¬ opAlu 0x67 = false), Nat.le_of_ble_eq_true rfl⟩
theorem addAlias70 (oa ob : Byte) : Statement (.addAlias70 oa ob) :=
  ⟨rfl, Nat.le_of_ble_eq_true rfl, fun h => absurd h (by decide : ¬ opAlu 0x70 = false), Nat.le_of_ble_eq_true rfl⟩
theorem subAlias71 (oa ob : Byte) : Statement (.subAlias71 oa ob) :=
  ⟨rfl, Nat.le_of_ble_eq_true rfl, fun h => absurd h (by decide : ¬ opAlu 0x71 = false), Nat.le_of_ble_eq_true rfl⟩
theorem mulAlias72 (oa ob : Byte) : Statement (.mulAlias72 oa ob) :=
  ⟨rfl, Nat.le_of_ble_eq_true rfl, fun h => absurd h (by decide : ¬ opAlu 0x72 = false), Nat.le_of_ble_eq_true rfl⟩
theorem cmpAlias77 (oa ob : Byte) : Statement (.cmpAlias77 oa ob) :=
  ⟨rfl, Nat.le_of_ble_eq_true rfl, fun h => absurd h (by decide : ¬ opAlu 0x77 = false), Nat.le_of_ble_eq_true rfl⟩
theorem addAliasB0 (oa ob : Byte) : Statement (.addAliasB0 oa ob) :=
  ⟨rfl, Nat.le_of_ble_eq_true rfl, fun h => absurd h (by decide : ¬ opAlu 0xB0 = false), Nat.le_of_ble_eq_true rfl⟩
theorem subAliasB1 (oa ob : Byte) : Statement (.subAliasB1 oa ob) :=
  ⟨rfl, Nat.le_of_ble_eq_true rfl, fun h => absurd h (by decide : ¬ opAlu 0xB1 = false), Nat.le_of_ble_eq_true rfl⟩
theorem mulAliasB2 (oa ob : Byte) : Statement (.mulAliasB2 oa ob) :=
  ⟨rfl, Nat.le_of_ble_eq_true rfl, fun h => absurd h (by decide : ¬ opAlu 0xB2 = false), Nat.le_of_ble_eq_true rfl⟩
theorem cmpAliasB7 (oa ob : Byte) : Statement (.cmpAliasB7 oa ob) :=
  ⟨rfl, Nat.le_of_ble_eq_true rfl, fun h => absurd h (by decide : ¬ opAlu 0xB7 = false), Nat.le_of_ble_eq_true rfl⟩
theorem reservedOperandCount (op : Byte) : Statement (.reservedOperandCount op) :=
  ⟨rfl, Nat.le_of_ble_eq_true rfl, fun _ => Nat.le_add_right 1 _, Nat.le_of_ble_eq_true rfl⟩
theorem aluUnsupportedIdentifier (op : Byte) : Statement (.aluUnsupportedIdentifier op) :=
  ⟨rfl, Nat.le_of_ble_eq_true rfl, fun _ => Nat.le_add_right 1 _, Nat.le_of_ble_eq_true rfl⟩
theorem unrecognized (op : Byte) : Statement (.unrecognized op) :=
  ⟨rfl, Nat.le_of_ble_eq_true rfl, fun _ => Nat.le_add_right 1 _, Nat.le_of_ble_eq_true rfl⟩

end Sys2Proof.Laws.EncodingShape
end

