-- ==== Sys2Proof/Laws/Run.lean ====
section
/-! SUPPORT. Runs of the core, one step at a time. -/

namespace Sys2Proof.Machine

/-- A run that takes one more step, for any core. -/
theorem coreRun_succ (M : Host.Core) {x y : M.State} (h : M.step x = .next y) (n : Nat) :
    M.run (n + 1) x = M.run n y := by simp only [Host.Core.run, h]

theorem run_zero (s : State) : Host.Core.run core 0 s = .next s := rfl

theorem run_succ {s t : State} (h : step s = .next t) (n : Nat) :
    Host.Core.run core (n + 1) s = Host.Core.run core n t := coreRun_succ core h n

end Sys2Proof.Machine
end

