-- ==== Sys2Proof/Laws/Word.lean ====
section
/-! SUPPORT. wrap8 on integers and the byte arithmetic it agrees with (00_scope.md R9, 40_alu.md R106). -/

namespace Sys2Proof

theorem wrap8_toNat (n : Int) : ((wrap8 n).toNat : Int) = n % 256 := by
  simp [wrap8, BitVec.toNat_ofInt]; omega

theorem wrap8_eq_iff (m n : Int) : wrap8 m = wrap8 n ↔ m % 256 = n % 256 := by
  rw [← BitVec.toNat_inj, ← Int.ofNat_inj, wrap8_toNat, wrap8_toNat]

theorem wrap8_add (a b : Byte) : wrap8 ((a.toNat : Int) + (b.toNat : Int)) = a + b := by
  rw [← BitVec.toNat_inj, ← Int.ofNat_inj, wrap8_toNat, BitVec.toNat_add]; omega

theorem wrap8_sub (a b : Byte) : wrap8 ((a.toNat : Int) - (b.toNat : Int)) = a - b := by
  rw [← BitVec.toNat_inj, ← Int.ofNat_inj, wrap8_toNat, BitVec.toNat_sub]; omega

theorem wrap8_mul (a b : Byte) : wrap8 ((a.toNat : Int) * (b.toNat : Int)) = a * b := by
  rw [← BitVec.toNat_inj, ← Int.ofNat_inj, wrap8_toNat, BitVec.toNat_mul]; simp

end Sys2Proof
end

