-- ==== Sys2Proof/Machine/Assembler.lean ====
section
/-! DEFINITION. The assembler's syntax (30_encoding.md R75, R76; D18). It is notation outside the block: it gives bytes,
and no step depends on it. Lexical details the spec leaves open are in log 16. -/

namespace Sys2Proof.Machine

/-- One line of assembly, read: bytes known at once, or a LOAD whose immediate is a label (30_encoding.md R75). -/
inductive AsmItem where
  | bytes (bs : List Byte)
  | loadLabel (reg : Byte) (name : List Char)
  deriving DecidableEq, Repr

/-- A line: the labels it defines, then what it emits. -/
structure AsmLine where
  labels : List (List Char)
  item : AsmItem
  deriving DecidableEq, Repr

/-- The bytes an item emits: every instruction emits `1 + cnt` (30_encoding.md R75). -/
def AsmItem.size : AsmItem → Nat
  | .bytes bs => bs.length
  | .loadLabel _ _ => 3

/-- Split a line into words at white space and commas. -/
def asmWords (acc : List Char) : List Char → List (List Char)
  | [] => if acc = [] then [] else [acc.reverse]
  | c :: cs =>
    if isBlank c || c = ',' then
      if acc = [] then asmWords [] cs else acc.reverse :: asmWords [] cs
    else asmWords (c :: acc) cs

/-- `R0` to `R7`, with `SP` for `R7` (30_encoding.md R75). -/
def asmReg : List Char → Option Byte
  | ['S', 'P'] => some 7
  | ['R', d] => if '0' ≤ d ∧ d ≤ '7' then some (BitVec.ofNat 8 (d.toNat - '0'.toNat)) else none
  | _ => none

/-- A decimal, `0x` or `0b` literal from 0 to 255 (30_encoding.md R75). -/
def asmLiteral (w : List Char) : Option Byte :=
  let n := match w with
    | '0' :: 'x' :: d :: ds => parseDigits 16 0 (d :: ds)
    | '0' :: 'b' :: d :: ds => parseDigits 2 0 (d :: ds)
    | d :: ds => parseDigits 10 0 (d :: ds)
    | [] => none
  match n with
  | some n => if n ≤ 255 then some (BitVec.ofNat 8 n) else none
  | none => none

/-- A label's name: it starts with a letter or `_` (log 16). -/
def asmIsName : List Char → Bool
  | [] => false
  | c :: _ => c.isAlpha || c = '_'

/-- The one-register mnemonics, with the spelling PRN for PRINT (30_encoding.md R75). -/
def asmReg1 : List (List Char × (Byte → Instr)) :=
  [ ("PRINT".toList, .print), ("PRN".toList, .print), ("PUSH".toList, .push), ("POP".toList, .pop),
    ("CALL".toList, .call), ("JMP".toList, .jmp), ("JEQ".toList, .jeq), ("JNE".toList, .jne) ]

/-- The two-register mnemonics (30_encoding.md R75). -/
def asmReg2 : List (List Char × (Byte → Byte → Instr)) :=
  [("ADD".toList, .add), ("SUB".toList, .sub), ("MUL".toList, .mul), ("CMP".toList, .cmp)]

/-- What the words of a line emit, its labels taken off (30_encoding.md R75's table; HLT and LDI are HALT and LOAD).
DESIGN CHOICE: the `v` of `DB v`, whose form R75 does not give, is a literal as for `imm`, and no label (log 16). -/
def asmItem : List (List Char) → Option AsmItem
  | [] => some (.bytes [])
  | [m] =>
    if m = "HALT".toList ∨ m = "HLT".toList then some (.bytes (encode .halt))
    else if m = "RET".toList then some (.bytes (encode .ret))
    else none
  | [m, a] =>
    if m = "DB".toList then (asmLiteral a).map fun v => .bytes [v]
    else
      match asmReg1.lookup m, asmReg a with
      | some mk, some r => some (.bytes (encode (mk r)))
      | _, _ => none
  | [m, a, b] =>
    if m = "LOAD".toList ∨ m = "LDI".toList then
      match asmReg a, asmLiteral b with
      | some r, some v => some (.bytes (encode (.load r v)))
      | some r, none => if asmIsName b then some (.loadLabel r b) else none
      | none, _ => none
    else
      match asmReg2.lookup m, asmReg a, asmReg b with
      | some mk, some r, some q => some (.bytes (encode (mk r q)))
      | _, _, _ => none
  | _ :: _ :: _ :: _ :: _ => none

/-- The label a word defines: a name followed by a colon. -/
def asmLabel (w : List Char) : Option (List Char) :=
  match w.reverse with
  | ':' :: r => if asmIsName r.reverse then some r.reverse else none
  | _ => none

/-- Read the words of a line: leading labels, then the item. -/
def asmLine : List (List Char) → Option AsmLine
  | [] => some { labels := [], item := .bytes [] }
  | w :: ws =>
    match asmLabel w with
    | some name => (asmLine ws).map fun l => { l with labels := name :: l.labels }
    | none => (asmItem (w :: ws)).map fun i => { labels := [], item := i }

/-- Read a whole source, a `;` starting a comment (log 16). -/
def asmRead : List (List Char) → Option (List AsmLine)
  | [] => some []
  | t :: ts =>
    match asmLine (asmWords [] (t.takeWhile (· ≠ ';'))), asmRead ts with
    | some l, some ls => some (l :: ls)
    | _, _ => none

/-- The address of each label: that of the next byte emitted (30_encoding.md R75). -/
def asmLabels (addr : Nat) : List AsmLine → List (List Char × Nat)
  | [] => []
  | l :: ls => (l.labels.map fun n => (n, addr)) ++ asmLabels (addr + l.item.size) ls

/-- The bytes of a source whose labels are known; an unknown label, or an address above 255, is an error. -/
def asmEmit (labels : List (List Char × Nat)) : List AsmLine → Option (List Byte)
  | [] => some []
  | l :: ls =>
    match asmEmit labels ls with
    | none => none
    | some rest =>
      match l.item with
      | .bytes bs => some (bs ++ rest)
      | .loadLabel r name =>
        match labels.lookup name with
        | some v => if v ≤ 255 then some (encode (.load r (BitVec.ofNat 8 v)) ++ rest) else none
        | none => none

/-- Assemble a source: its bytes from address 0, or `none` where the text is not assembly or a label is defined twice. -/
def assemble (source : List (List Char)) : Option (List Byte) :=
  match asmRead source with
  | none => none
  | some ls =>
    let labels := asmLabels 0 ls
    if (labels.map Prod.fst).Nodup then asmEmit labels ls else none

end Sys2Proof.Machine
end

