-- ==== Sys2Proof/Tests/Slice0.lean ====
section
/-! SUPPORT. The model's own tests: ill-formed terms, decoding from words written out from spec/, the single-step vectors of
95_test_vectors.md (E, A, B, K, C, P), the host's interface, and one witness for the hypotheses of each statement. -/

namespace Sys2Proof.Tests

open Sys2Proof Sys2Proof.Machine

/-! ## Ill-formed terms -/

theorem test_reserved_class_refuses_other_bytes : (Instr.reservedOperandCount 0x01).wellFormed = false := by decide
theorem test_unsupported_class_refuses_other_bytes : (Instr.aluUnsupportedIdentifier 0xA0).wellFormed = false := by decide
theorem test_unrecognized_class_refuses_other_bytes : (Instr.unrecognized 0x01).wellFormed = false := by decide
theorem test_register_check_refuses_first_operand : (Instr.load 8 0).registersValid = false := by decide
theorem test_register_check_refuses_second_operand : (Instr.add 0 8).registersValid = false := by decide
theorem test_register_check_refuses_a_branch_operand : (Instr.jeq 255).registersValid = false := by decide
theorem test_immediate_is_not_a_register : (Instr.load 7 255).registersValid = true := by decide

/-! ## Decoding: bits written out from 30_encoding.md R67 and R74 -/

theorem test_decode_halt : decode 0b00000001 3 6 = .halt := by decide
theorem test_decode_load : decode 0b10000010 3 200 = .load 3 200 := by decide
theorem test_decode_print : decode 0b01000111 3 6 = .print 3 := by decide
theorem test_decode_push : decode 0b01000101 3 6 = .push 3 := by decide
theorem test_decode_pop : decode 0b01000110 3 6 = .pop 3 := by decide
theorem test_decode_call : decode 0b01010000 3 6 = .call 3 := by decide
theorem test_decode_ret : decode 0b00010001 3 6 = .ret := by decide
theorem test_decode_jmp : decode 0b01010100 3 6 = .jmp 3 := by decide
theorem test_decode_jeq : decode 0b01010101 3 6 = .jeq 3 := by decide
theorem test_decode_jne : decode 0b01010110 3 6 = .jne 3 := by decide
theorem test_decode_add : decode 0b10100000 3 6 = .add 3 6 := by decide
theorem test_decode_sub : decode 0b10100001 3 6 = .sub 3 6 := by decide
theorem test_decode_mul : decode 0b10100010 3 6 = .mul 3 6 := by decide
theorem test_decode_cmp : decode 0b10100111 3 6 = .cmp 3 6 := by decide
theorem test_decode_addAlias20 : decode 0b00100000 3 6 = .addAlias20 3 6 := by decide
theorem test_decode_subAlias21 : decode 0b00100001 3 6 = .subAlias21 3 6 := by decide
theorem test_decode_mulAlias22 : decode 0b00100010 3 6 = .mulAlias22 3 6 := by decide
theorem test_decode_cmpAlias27 : decode 0b00100111 3 6 = .cmpAlias27 3 6 := by decide
theorem test_decode_addAlias30 : decode 0b00110000 3 6 = .addAlias30 3 6 := by decide
theorem test_decode_subAlias31 : decode 0b00110001 3 6 = .subAlias31 3 6 := by decide
theorem test_decode_mulAlias32 : decode 0b00110010 3 6 = .mulAlias32 3 6 := by decide
theorem test_decode_cmpAlias37 : decode 0b00110111 3 6 = .cmpAlias37 3 6 := by decide
theorem test_decode_addAlias60 : decode 0b01100000 3 6 = .addAlias60 3 6 := by decide
theorem test_decode_subAlias61 : decode 0b01100001 3 6 = .subAlias61 3 6 := by decide
theorem test_decode_mulAlias62 : decode 0b01100010 3 6 = .mulAlias62 3 6 := by decide
theorem test_decode_cmpAlias67 : decode 0b01100111 3 6 = .cmpAlias67 3 6 := by decide
theorem test_decode_addAlias70 : decode 0b01110000 3 6 = .addAlias70 3 6 := by decide
theorem test_decode_subAlias71 : decode 0b01110001 3 6 = .subAlias71 3 6 := by decide
theorem test_decode_mulAlias72 : decode 0b01110010 3 6 = .mulAlias72 3 6 := by decide
theorem test_decode_cmpAlias77 : decode 0b01110111 3 6 = .cmpAlias77 3 6 := by decide
theorem test_decode_addAliasB0 : decode 0b10110000 3 6 = .addAliasB0 3 6 := by decide
theorem test_decode_subAliasB1 : decode 0b10110001 3 6 = .subAliasB1 3 6 := by decide
theorem test_decode_mulAliasB2 : decode 0b10110010 3 6 = .mulAliasB2 3 6 := by decide
theorem test_decode_cmpAliasB7 : decode 0b10110111 3 6 = .cmpAliasB7 3 6 := by decide
theorem test_decode_reservedOperandCount : decode 0b11100000 0 1 = .reservedOperandCount 0b11100000 := by decide
theorem test_decode_aluUnsupportedIdentifier : decode 0b01100101 0 0 = .aluUnsupportedIdentifier 0b01100101 := by decide
theorem test_decode_unrecognized : decode 0b10000100 0 1 = .unrecognized 0b10000100 := by decide
theorem test_table_word : decodeTableWord 24 0x330282 = some (.load 2 0x33) := by decide
theorem test_table_word_operands_read_zero : decodeTableWord 8 0x0182 = some (.load 0 0) := by decide

/-! ## One step -/

/-- A reset state with bytes at pc, registers and FL set. -/
def start (pc : Byte) (bytes : List Byte) (regs : List (Fin 8 × Byte)) (fl : Byte := 0) : State :=
  let loaded := loadFrom pc bytes .reset
  { regs.foldl (fun s r => s.setReg r.1 r.2) loaded with pc := pc, fl := fl }

/-- The state one step after such a start. -/
def after (pc : Byte) (bytes : List Byte) (regs : List (Fin 8 × Byte)) (fl : Byte := 0) : State :=
  stepPort (start pc bytes regs fl)

/-- 95_test_vectors.md E1. -/
theorem test_zero_byte_is_unrecognized : let t := after 0x10 [0x00] []
    t.run = .fatalError ∧ t.fatal.map (fun r => r.code) = some 1 ∧ t.pc = 0x10 := by decide
/-- 95_test_vectors.md E3. -/
theorem test_reserved_count_comes_first : let t := after 0x10 [0xFF, 0x00, 0x00] []
    t.run = .fatalError ∧ t.fatal.map (fun r => r.code) = some 1 := by decide
/-- 95_test_vectors.md E5. -/
theorem test_div_is_unsupported : let t := after 0x10 [0xA3, 0x00, 0x01] []
    t.run = .fatalError ∧ t.fatal.map (fun r => r.code) = some 2 := by decide
/-- 95_test_vectors.md E7. -/
theorem test_alias_advances_by_its_own_count : let t := after 0x10 [0x20, 0x00, 0x01] [(0, 5), (1, 6)]
    t.reg 0 = 0x0B ∧ t.pc = 0x11 := by decide
/-- 95_test_vectors.md E8. -/
theorem test_cmp_alias_advances_by_two : let t := after 0x10 [0x67, 0x00, 0x01] [(0, 5), (1, 5)]
    t.fl = 0x01 ∧ t.pc = 0x12 := by decide
/-- 95_test_vectors.md E9. -/
theorem test_alias_with_setpc_stays : let t := after 0x10 [0xB0, 0x00, 0x01] [(0, 5), (1, 6)]
    t.reg 0 = 0x0B ∧ t.pc = 0x10 := by decide
/-- 95_test_vectors.md E10. -/
theorem test_fetch_wraps : let t := after 0xFE [0x82, 0x02, 0x33] []
    t.reg 2 = 0x33 ∧ t.pc = 0x01 := by decide
/-- 95_test_vectors.md E11. -/
theorem test_second_register_is_checked : let t := after 0x10 [0xA0, 0x00, 0x08] []
    t.run = .fatalError ∧ t.fatal.map (fun r => r.code) = some 3 := by decide
/-- 95_test_vectors.md A1. -/
theorem test_add_wraps : let t := after 0x10 [0xA0, 0x00, 0x01] [(0, 255), (1, 1)] 0x05
    t.reg 0 = 0x00 ∧ t.fl = 0x05 := by decide
/-- 95_test_vectors.md A3. -/
theorem test_add_doubles_its_own_operand : let t := after 0x10 [0xA0, 0x00, 0x00] [(0, 0x80)]
    t.reg 0 = 0x00 ∧ t.pc = 0x13 := by decide
/-- 95_test_vectors.md A5. -/
theorem test_sub_wraps : let t := after 0x10 [0xA1, 0x00, 0x01] [(0, 0), (1, 1)]
    t.reg 0 = 0xFF ∧ t.pc = 0x13 := by decide
/-- 95_test_vectors.md A6. -/
theorem test_sub_order : let t := after 0x10 [0xA1, 0x02, 0x03] [(2, 3), (3, 5)]
    t.reg 2 = 0xFE ∧ t.reg 3 = 5 := by decide
/-- 95_test_vectors.md A10. -/
theorem test_mul_keeps_the_low_byte : let t := after 0x10 [0xA2, 0x00, 0x01] [(0, 255), (1, 255)]
    t.reg 0 = 0x01 ∧ t.pc = 0x13 := by decide
/-- 95_test_vectors.md A11. -/
theorem test_mul_wraps : let t := after 0x10 [0xA2, 0x00, 0x01] [(0, 200), (1, 2)]
    t.reg 0 = 0x90 ∧ t.reg 1 = 2 := by decide
/-- 95_test_vectors.md A13. -/
theorem test_cmp_less_clears_equal : let t := after 0x10 [0xA7, 0x00, 0x01] [(0, 5), (1, 9)] 0x01
    t.fl = 0x04 ∧ t.reg 0 = 5 := by decide
/-- 95_test_vectors.md A17. -/
theorem test_cmp_is_unsigned : let t := after 0x10 [0xA7, 0x00, 0x01] [(0, 0x80), (1, 0x7F)]
    t.fl = 0x02 ∧ t.pc = 0x13 := by decide
/-- 95_test_vectors.md B1. -/
theorem test_load : let t := after 0x00 [0x82, 0x00, 0x08] []
    t.reg 0 = 8 ∧ t.pc = 0x03 := by decide
/-- 95_test_vectors.md B3. -/
theorem test_load_checks_its_register : let t := after 0x10 [0x82, 0x08, 0x05] []
    t.run = .fatalError ∧ t.fatal.map (fun r => r.code) = some 3 := by decide
/-- 95_test_vectors.md B4. -/
theorem test_print : let t := after 0x10 [0x47, 0x00] [(0, 255)]
    t.out = [255] ∧ t.pc = 0x12 := by decide
/-- 95_test_vectors.md B5. -/
theorem test_print_checks_its_register : let t := after 0x10 [0x47, 0xFF] []
    t.run = .fatalError ∧ t.fatal.map (fun r => r.code) = some 3 ∧ t.out = [] := by decide
/-- 95_test_vectors.md B7. -/
theorem test_halt : let t := after 0xFF [0x01] []
    t.run = .halted ∧ t.fatal = none := by decide
/-- 95_test_vectors.md K2. -/
theorem test_push_of_the_stack_pointer : let t := after 0x10 [0x45, 0x07] []
    t.sp = 0xF3 ∧ t.readMem 0xF3 = 0xF3 := by decide
/-- 95_test_vectors.md K3. -/
theorem test_push_wraps : let t := after 0x10 [0x45, 0x01] [(1, 9), (7, 0)]
    t.sp = 0xFF ∧ t.readMem 0xFF = 0x09 := by decide
/-- 95_test_vectors.md K5. -/
theorem test_pop_of_the_stack_pointer : let t := stepPort ((start 0x10 [0x46, 0x07] [(7, 0xF3)]).writeMem 0xF3 0x20)
    t.sp = 0x21 ∧ t.pc = 0x12 := by decide
/-- 95_test_vectors.md K7. -/
theorem test_pop_wraps : let t := stepPort ((start 0x10 [0x46, 0x00] [(7, 0xFF)]).writeMem 0xFF 5)
    t.reg 0 = 0x05 ∧ t.sp = 0x00 := by decide
/-- 95_test_vectors.md C2. -/
theorem test_call_through_the_stack_pointer : let t := after 0x10 [0x50, 0x07] []
    t.readMem 0xF3 = 0x12 ∧ t.pc = 0xF3 := by decide
/-- 95_test_vectors.md C3. -/
theorem test_call_return_address_wraps : let t := after 0xFE [0x50, 0x01] [(1, 0x40)]
    t.readMem 0xF3 = 0x00 ∧ t.pc = 0x40 := by decide
/-- 95_test_vectors.md C5. -/
theorem test_ret : let t := stepPort ((start 0x40 [0x11] [(7, 0xF3)]).writeMem 0xF3 0x12)
    t.pc = 0x12 ∧ t.sp = 0xF4 := by decide
/-- 95_test_vectors.md C7. -/
theorem test_jmp : let t := after 0x05 [0x54, 0x02] [(2, 0x20)]
    t.pc = 0x20 ∧ t.fl = 0 := by decide
/-- 95_test_vectors.md C9. -/
theorem test_jeq_taken : let t := after 0x08 [0x55, 0x03] [(3, 0x30)] 0x01
    t.pc = 0x30 ∧ t.fl = 0x01 := by decide
/-- 95_test_vectors.md C12. -/
theorem test_jeq_checks_its_register_when_not_taken : let t := after 0x08 [0x55, 0x09] [] 0x04
    t.run = .fatalError ∧ t.fatal.map (fun r => r.code) = some 3 := by decide
/-- 95_test_vectors.md C15. -/
theorem test_jne_taken_before_any_comparison : let t := after 0x08 [0x56, 0x03] [(3, 0x30)]
    t.pc = 0x30 ∧ t.fl = 0x00 := by decide
/-- 95_test_vectors.md C16. -/
theorem test_jne_not_taken_wraps : let t := after 0xFE [0x56, 0x03] [(3, 0x30)] 0x01
    t.pc = 0x00 ∧ t.fl = 0x01 := by decide
/-- 95_test_vectors.md B8. -/
theorem test_step_does_nothing_when_halted : let s : State := { start 0x10 [0xA0, 0, 1] [] with run := .halted }
    step s = .next s := rfl
/-- 95_test_vectors.md P4: the record of running off the end. -/
theorem test_fatal_record : (after 5 [] [(0, 1)]).fatal = some
    { kind := .unrecognizedOpcode, code := 1, pc := 5, byte0 := 0, byte1 := 0, byte2 := 0,
      regs := #v[1, 0, 0, 0, 0, 0, 0, 0xF4] } := by decide
theorem test_placed_word_runs_first : stepPort (State.reset.withFetchWord 24 0x080082) =
    { loadFrom 0 [0x82, 0, 8] .reset with regs := #v[8, 0, 0, 0, 0, 0, 0, 0xF4], pc := 3 } := by decide

/-! ## The host's interface -/

/-- 30_encoding.md R77. -/
theorem test_image_line : parseImageLine " 10000010 # LOAD".toList = .value 0x82 ∧ parseImageLine "  # note".toList = .skipped ∧
    parseImageLine "102".toList = .malformed ∧ parseImageLine "100000000".toList = .malformed := by decide
/-- 60_exceptions.md R184. -/
theorem test_boot_of_a_malformed_image : boot ["1".toList, "1 1".toList] = .error .programLoadFailure := by decide
/-- 60_exceptions.md R195. -/
theorem test_load_is_refused_after_a_step : ((Session.apply .step .initial).bind (Session.apply (.load 0 1))) = none := by
  decide
/-- 95_test_vectors.md P1. -/
theorem test_assemble : assemble ["LOAD R0, 2".toList, "LDI R1, 0x03".toList, "MUL R0, R1".toList, "PRN R0 ; six".toList,
    "HLT".toList] = some [0x82, 0, 2, 0x82, 1, 3, 0xA2, 0, 1, 0x47, 0, 1] := by decide
/-- 30_encoding.md R75: a label used before its line. -/
theorem test_assemble_a_label : assemble ["LOAD SP, end".toList, "end: DB 255".toList] = some [0x82, 7, 3, 255] := by decide

/-! ## Witnesses: a state and operands that meet the hypotheses of each statement, its clauses at their boundaries -/

/-- The register operand bytes 0 and 7 are registers and 8 and 255 are not: the hypotheses of Add, Sub, Mul, Cmp, their
aliases, Load, Print, Push, Pop, Call, Jmp, Jeq, Jne, PushThenPop and CallThenRet, in each clause. -/
theorem witness_register_operands : (0 : Byte).toNat = (0 : Fin 8).val ∧ (7 : Byte).toNat = (7 : Fin 8).val ∧
    8 ≤ (8 : Byte).toNat ∧ 8 ≤ (255 : Byte).toNat ∧ (6 : Byte).toNat = (6 : Fin 8).val ∧ (6 : Fin 8) ≠ 7 := by decide

theorem witness_CanonicalMemories : ∃ m : Memory, m ≠ [] ∧ Memory.wf m = true ∧
    ∀ a : Byte, Memory.readAt m a.toNat = Memory.readAt m a.toNat := ⟨[(0, 1), (255, 255)], by decide, by decide, fun _ => rfl⟩

theorem witness_DecodingAnEncodedInstruction : (Instr.add 255 8).wellFormed = true ∧
    (Instr.reservedOperandCount 0xC0).wellFormed = true ∧ (Instr.aluUnsupportedIdentifier 0x23).wellFormed = true ∧
    (Instr.unrecognized 0x9F).wellFormed = true := by decide

theorem witness_DecodingFollowsTheFields : (opCnt 0xC0 = 3 ∧ opCnt 0xFF = 3) ∧
    (opCnt 0xB7 ≠ 3 ∧ opAlu 0xB7 = true ∧ opId 0xB7 = 7) ∧
    (opCnt 0xBF ≠ 3 ∧ opAlu 0xBF = true ∧ opId 0xBF ∉ [(0 : BitVec 4), 1, 2, 7]) ∧
    (opCnt 0x01 ≠ 3 ∧ opAlu 0x01 = false) ∧
    (opCnt 0x9F ≠ 3 ∧ opAlu 0x9F = false ∧ (0x9F : Byte) ∉ [(0x01 : Byte), 0x82, 0x47, 0x45, 0x46, 0x50, 0x11, 0x54, 0x55, 0x56]) := by
  decide

theorem witness_StepRunsTheDecodedInstruction : let s := start 0xFE [0x82, 2, 0x33] []
    s.run = .running ∧ decode (s.readMem s.pc) (s.readMem (s.pc + 1)) (s.readMem (s.pc + 2)) = .load 2 0x33 := by decide

theorem witness_PlacedTableWord : decodeTableWord 24 0x0100A0 = some (.add 0 1) := by decide

/-- A machine that has halted, and one that ended in a fatal error. -/
theorem witness_EndedMachine : (after 0 [1] []).run ≠ .running ∧ (after 0 [0] []).run ≠ .running ∧
    Session.apply .restart { block := after 0 [1] [], started := true } = some .initial ∧
    Session.apply (.load 0 9) { block := after 0 [1] [], started := false } =
      some { block := (after 0 [1] []).writeMem 0 9, started := false } ∧
    Session.apply (.run 3) { block := after 0 [0] [], started := true } =
      some { block := after 0 [0] [], started := true } := by decide

theorem witness_RunningIsStepping : Host.Core.run core 1 (start 0 [0x82, 0, 8, 1] []) = .next (after 0 [0x82, 0, 8, 1] []) ∧
    Host.Core.run core 1 (start 0 [1] []) = .next (after 0 [1] []) := ⟨rfl, rfl⟩

/-- The invariant holds at reset and after a fatal step. -/
theorem witness_EveryStepKeepsTheInvariant : State.reset.Inv ∧ step State.reset = .next (stepPort State.reset) ∧
    (stepPort State.reset).Inv :=
  ⟨⟨rfl, by decide, by decide, by trivial⟩, rfl, ⟨rfl, by decide, by decide, ⟨by decide, rfl⟩⟩⟩

theorem witness_FatalErrorIsPrecise : let s := start 0x10 [0x45, 9] []
    s.run ≠ .fatalError ∧ exec (.push 9) s = .next (stepPort s) ∧ (stepPort s).run = .fatalError :=
  ⟨by decide, rfl, by decide⟩

/-- A RUNNING state without a record for each clause of the error order. -/
theorem witness_StepReportsTheFirstError : ∀ p ∈ [([0xFF, 0, 0], some 1), ([0xA3, 9, 9], some 2), ([0xA0, 7, 8], some 3),
      ([0xA0, 7, 7], none), ([0x84, 9, 9], some 1), ([0x01, 9, 9], none), ([0x11, 9, 9], none), ([0x55, 8, 0], some 3),
      ([0x55, 7, 0], none)],
    let s := start 0x10 p.1 []
    s.run = .running ∧ s.fatal = none ∧ (stepPort s).fatal.map (fun r => r.code) = p.2 := by decide

theorem witness_UnsupportedIdentifier : let s := start 0x10 [0x23] []
    s.run = .running ∧ (s.readMem s.pc).getLsbD 5 = true ∧ opCnt (s.readMem s.pc) ≠ 3 ∧
      opId (s.readMem s.pc) ∉ [(0 : BitVec 4), 1, 2, 7] := by decide

theorem witness_RegisterOperandOfEightOrMore : (∃ r ∈ (Instr.jeq 8).registerOperands, 8 ≤ r.toNat) ∧
    ∃ r ∈ (Instr.cmpAlias37 0 255).registerOperands, 8 ≤ r.toNat :=
  ⟨⟨8, by decide, by decide⟩, ⟨255, by decide, by decide⟩⟩

theorem witness_ValidInstructions : (Instr.load 7 255).registersValid = true ∧ (Instr.load 7 255).faultKind = none ∧
    Instr.load 7 255 ≠ .halt ∧ opSetpc (Instr.load 7 255).opcode = false ∧
    (Instr.addAliasB0 0 7).registersValid = true ∧ opSetpc (Instr.addAliasB0 0 7).opcode = true ∧
    opAlu (Instr.addAliasB0 0 7).opcode = true := by decide

/-- The next step of an alias that repeats, ADD, SUB and MUL, and the form whose two operands are one register. -/
theorem witness_RepeatingAlias : ∀ bytes ∈ [[0xB0, 0, 1], [0x31, 0, 7], [0x72, 7, 0], [0x37, 0, 1], [0xB0, 7, 7]],
    let s := start 0xFE bytes [(0, 5), (1, 6)]
    s.run = .running ∧ opCnt (s.readMem s.pc) ≠ 3 ∧ opAlu (s.readMem s.pc) = true ∧ opSetpc (s.readMem s.pc) = true ∧
      opId (s.readMem s.pc) ∈ [(0 : BitVec 4), 1, 2, 7] ∧ (s.readMem (s.pc + 1)).toNat < 8 ∧
      (s.readMem (s.pc + 2)).toNat < 8 := by decide

/-- FL with E set and clear, for the two branches. -/
theorem witness_branches : (start 0x10 [] [] 0x01).fl.getLsbD 0 = true ∧ (start 0x10 [] [] 0x06).fl.getLsbD 0 = false := by
  decide

/-- PUSH R1 then POP R2, and PUSH R7 then POP R7, with the stack at the bottom of memory. -/
theorem witness_PushThenPop : exec (.push 1) (start 0x10 [0x45, 1, 0x46, 2] [(1, 9), (7, 0)]) =
      .next (after 0x10 [0x45, 1, 0x46, 2] [(1, 9), (7, 0)]) ∧
    (stepPort (after 0x10 [0x45, 1, 0x46, 2] [(1, 9), (7, 0)])).reg 2 = 9 ∧
    (stepPort (after 0x10 [0x45, 7, 0x46, 7] [(7, 0)])).reg 7 = 0 :=
  ⟨rfl, by decide, by decide⟩

/-- The state right after the CALL meets the hypotheses on the later state. -/
theorem witness_CallThenRet : let t := after 0x10 [0x50, 1] [(1, 0x40)]
    exec (.call 1) (start 0x10 [0x50, 1] [(1, 0x40)]) = .next t ∧ t.reg 7 = t.reg 7 ∧
      t.readMem (t.reg 7) = t.readMem (t.reg 7) ∧ t.pc = 0x40 :=
  ⟨rfl, rfl, rfl, by decide⟩

/-- An instruction that is no compare; a branch with two FL values that agree at E; another instruction with two that do
not; and a valid compare. -/
theorem witness_OnlyCmpWritesFlags : (Instr.add 0 1).aluOp ≠ some .cmp ∧
    ((0xFF : Byte).getLsbD 0 = (start 0x10 [] [] 0x01).fl.getLsbD 0) ∧
    exec (.jeq 0) (start 0x10 [0x55, 0] [] 0x01) = .next (after 0x10 [0x55, 0] [] 0x01) ∧
    exec (.add 0 1) (start 0x10 [0xA0, 0, 1] []) = .next (after 0x10 [0xA0, 0, 1] []) ∧
    (Instr.cmp 0 1).aluOp = some .cmp ∧ (Instr.cmp 0 1).registersValid = true :=
  ⟨by decide, by decide, rfl, rfl, by decide, by decide⟩

theorem witness_FlagsStayNonzero : (Instr.cmpAliasB7 7 0).aluOp = some .cmp ∧ (Instr.cmpAliasB7 7 0).registersValid = true ∧
    (start 0 [0x54, 0] [] 0x04).fl = 0x04 ∧
    Host.Core.run core 1 (start 0 [0x54, 0] [] 0x04) = .next (after 0 [0x54, 0] [] 0x04) :=
  ⟨by decide, by decide, by decide, rfl⟩

/-- A PUSH that changes a byte; a RET, a POP and a LOAD, and a memory that differs outside the bytes they read. -/
theorem witness_OnlyStackInstructionsAccessMemory : (∃ s t : State, exec (.push 1) s = .next t ∧ t.readMem 0xF3 ≠ s.readMem 0xF3) ∧
    ∀ bytes ∈ [[0x11], [0x46, 2], [0x82, 2, 3]],
      let s := start 0x10 bytes []
      let s' : State := { s with mem := (s.writeMem 0x80 0x55).mem }
      s'.mem ≠ s.mem ∧ s'.readMem s.pc = s.readMem s.pc ∧ s'.readMem (s.pc + 1) = s.readMem (s.pc + 1) ∧
        s'.readMem (s.pc + 2) = s.readMem (s.pc + 2) ∧ s'.readMem s.sp = s.readMem s.sp ∧ s.run = .running :=
  ⟨⟨start 0x10 [0x45, 1] [(1, 42)], after 0x10 [0x45, 1] [(1, 42)], rfl, by decide⟩, by decide⟩

theorem witness_OutputGrowsOnlyByPrint : exec (.print 0) (start 0x10 [0x47, 0] []) = .next (after 0x10 [0x47, 0] []) ∧
    (after 0x10 [0x47, 0] []).out ≠ (start 0x10 [0x47, 0] []).out ∧
    Host.Core.run core 1 (start 0x10 [0x47, 0] []) = .next (after 0x10 [0x47, 0] []) :=
  ⟨rfl, by decide, rfl⟩

/-- A first operand that changes, and the stack pointer that changes. -/
theorem witness_RegistersChange : exec (.load 7 3) (start 0x10 [0x82, 7, 3] []) = .next (after 0x10 [0x82, 7, 3] []) ∧
    (after 0x10 [0x82, 7, 3] []).reg 7 ≠ (start 0x10 [0x82, 7, 3] []).reg 7 ∧
    exec .ret (start 0x10 [0x11] []) = .next (after 0x10 [0x11] []) ∧
    (after 0x10 [0x11] []).reg 7 ≠ (start 0x10 [0x11] []).reg 7 :=
  ⟨rfl, by decide, rfl, by decide⟩

theorem witness_OnlyHaltReachesHalted : (start 0x10 [1] []).run = .running ∧
    exec .halt (start 0x10 [1] []) = .next (after 0x10 [1] []) ∧ (after 0x10 [1] []).run = .halted ∧
    exec (.jmp 0) (start 0x10 [0x54, 0] []) = .next (after 0x10 [0x54, 0] []) ∧
    (after 0x10 [0x54, 0] []).run ≠ .halted :=
  ⟨by decide, rfl, by decide, rfl, by decide⟩

/-- A PUSH that stores over the next opcode, and one that stores over its own operand byte. -/
theorem witness_PushedByte : (let s := start 0x10 [0x45, 1] [(1, 0x01), (7, 0x13)]
      s.run = .running ∧ s.fetch = .push 1 ∧ s.sp - 1 = s.pc + 2) ∧
    let s := start 0xFF [0x45, 7] [(7, 0x01)]
    s.run = .running ∧ s.fetch = .push 7 ∧ s.sp - 1 = s.pc + 1 := by decide

theorem witness_LoadedImage : (List.replicate 256 (0xFF : Byte)).length ≤ 256 := List.length_replicate.le

/-- Images of both branches: one well-formed; one with a malformed line; one too long. -/
theorem witness_Boot : (boot ["1".toList, "".toList] = .ok (loadFrom 0 [1] .reset)) ∧
    (∃ l ∈ ["2".toList], parseImageLine l = .malformed) ∧
    256 < ((List.replicate 257 "1".toList).filterMap fun l => (parseImageLine l).byte).length :=
  ⟨rfl, by decide, by rw [List.filterMap_replicate_of_some (b := 1) (by decide), List.length_replicate]; decide⟩

/-- The host's moves before and after the first step. -/
theorem witness_HostLoads : (Session.initial.started = false) ∧
    Session.apply .step .initial = some { block := stepPort .reset, started := true } ∧
    Session.apply (.run 0) .initial = some { block := .reset, started := true } := by decide

theorem witness_ExitStatuses : ({ usage := 1, noFile := 2, loadFail := 3, fatal := 4 } : Config.ExitStatuses).Valid := by decide

end Sys2Proof.Tests
end

section
/-! SUPPORT. FL and the instructions (10_state.md R25): every routine but a comparison carries a replaced FL along, a
branch as long as bit E stays, and a comparison forgets it. -/

namespace Sys2Proof.Machine

open Host (Outcome)

/-- Replace FL by `f` in the next state of an outcome. -/
def replaceFl (f : Byte) : Outcome State Fault Refusal → Outcome State Fault Refusal
  | .next t => .next (t.setFl f)
  | .fault r => .fault r
  | .refused r => .refused r

/-! ## The shared operations -/

theorem State.autoAdvance_setFl (s : State) (f op : Byte) : (s.setFl f).autoAdvance op = (s.autoAdvance op).setFl f := by
  unfold State.autoAdvance; split <;> rfl

/-- A routine that carries FL along still does so after the sequencer's advance. -/
theorem next_autoAdvance_setFl {u u' : State} {f : Byte} (h : u' = u.setFl f) (op : Byte) :
    .next (u'.autoAdvance op) = replaceFl f (.next (u.autoAdvance op)) := by
  rw [h, State.autoAdvance_setFl]; rfl

/-- The register check does not read FL, and the fatal record does not hold it (10_state.md R28). -/
theorem withReg_setFl {s : State} {f : Byte} {k k' : Fin 8 → Outcome State Fault Refusal}
    (h : ∀ i, k' i = replaceFl f (k i)) (r : Byte) : withReg r (s.setFl f) k' = replaceFl f (withReg r s k) := by
  unfold withReg
  cases regIndex r with
  | none => rfl
  | some i => exact h i

theorem branchIf_setFl (taken : Bool) (op : Byte) (a : Fin 8) (s : State) (f : Byte) :
    branchIf taken op a (s.setFl f) = (branchIf taken op a s).setFl f := by
  cases taken <;> rfl

theorem State.flagE_setFl {s : State} {f : Byte} (h : f.getLsbD 0 = s.fl.getLsbD 0) : (s.setFl f).flagE = s.flagE := h

/-! ## The ALU -/

/-- An instruction with an ALU operation is that ALU step of its own opcode byte and its two register operands. -/
theorem exec_of_aluOp {i : Instr} {o : AluOp} (h : i.aluOp = some o) :
    ∃ oa ob : Byte, i.registerOperands = [oa, ob] ∧ ∀ s, exec i s = aluStep o i.opcode oa ob s := by
  cases i <;> cases h <;> exact ⟨_, _, rfl, fun _ => rfl⟩

theorem aluRoutine_setFl {o : AluOp} (ho : o ≠ .cmp) (a b : Fin 8) (s : State) (f : Byte) :
    aluRoutine o a b (s.setFl f) = (aluRoutine o a b s).setFl f := by
  cases o with
  | cmp => exact absurd rfl ho
  | add | sub | mul => rfl

theorem aluStep_setFl {o : AluOp} (ho : o ≠ .cmp) (op oa ob : Byte) (s : State) (f : Byte) :
    aluStep o op oa ob (s.setFl f) = replaceFl f (aluStep o op oa ob s) :=
  withReg_setFl (fun a => withReg_setFl (fun b => next_autoAdvance_setFl (aluRoutine_setFl ho a b s f) op) ob) oa

/-! ## The instructions -/

/-- An instruction that is no comparison carries a replaced FL along; JEQ and JNE if bit E stays as it was. -/
theorem exec_setFl {i : Instr} {s : State} {f : Byte} (hcmp : i.aluOp ≠ some .cmp)
    (hE : (∃ oa : Byte, i = .jeq oa ∨ i = .jne oa) → f.getLsbD 0 = s.fl.getLsbD 0) :
    exec i (s.setFl f) = replaceFl f (exec i s) := by
  cases hi : i.aluOp with
  | some o =>
    obtain ⟨oa, ob, -, hexec⟩ := exec_of_aluOp hi
    rw [hexec, hexec]
    exact aluStep_setFl (fun ho => hcmp (ho ▸ hi)) _ oa ob s f
  | none =>
    cases i
    case halt => exact next_autoAdvance_setFl (by rfl) opHalt
    case load oa imm => exact withReg_setFl (fun _ => next_autoAdvance_setFl (by rfl) opLoad) oa
    case print oa => exact withReg_setFl (fun _ => next_autoAdvance_setFl (by rfl) opPrint) oa
    case push oa => exact withReg_setFl (fun _ => next_autoAdvance_setFl (by rfl) opPush) oa
    case pop oa => exact withReg_setFl (fun _ => next_autoAdvance_setFl (by rfl) opPop) oa
    case call oa => exact withReg_setFl (fun _ => next_autoAdvance_setFl (by rfl) opCall) oa
    case ret => exact next_autoAdvance_setFl (by rfl) opRet
    case jmp oa => exact withReg_setFl (fun _ => next_autoAdvance_setFl (by rfl) opJmp) oa
    case jeq oa =>
      have hflag : (s.setFl f).flagE = s.flagE := State.flagE_setFl (hE ⟨oa, .inl rfl⟩)
      exact withReg_setFl (fun a => next_autoAdvance_setFl (hflag ▸ branchIf_setFl _ opJeq a s f) opJeq) oa
    case jne oa =>
      have hflag : (s.setFl f).flagE = s.flagE := State.flagE_setFl (hE ⟨oa, .inr rfl⟩)
      exact withReg_setFl (fun a => next_autoAdvance_setFl (hflag ▸ branchIf_setFl _ opJne a s f) opJne) oa
    case reservedOperandCount | aluUnsupportedIdentifier | unrecognized => rfl
    all_goals cases hi

/-- A comparison of two registers ends in the same state whatever FL was before. -/
theorem exec_setFl_of_cmp_valid {i : Instr} (hi : i.aluOp = some .cmp) (hv : i.registersValid = true) (s : State)
    (f : Byte) : exec i (s.setFl f) = exec i s := by
  obtain ⟨oa, ob, hops, hexec⟩ := exec_of_aluOp hi
  obtain ⟨a, ha⟩ := registersValid_index hv (r := oa) (by simp [hops])
  obtain ⟨b, hb⟩ := registersValid_index hv (r := ob) (by simp [hops])
  rw [hexec, hexec, aluStep_valid _ _ ha hb, aluStep_valid _ _ ha hb]
  rfl

/-- A comparison that fails its register check carries a replaced FL along. -/
theorem exec_setFl_of_cmp_invalid {i : Instr} (hi : i.aluOp = some .cmp) (hv : ¬ i.registersValid = true) (s : State)
    (f : Byte) : exec i (s.setFl f) = replaceFl f (exec i s) := by
  obtain ⟨oa, ob, hops, hexec⟩ := exec_of_aluOp hi
  have hbad : 8 ≤ oa.toNat ∨ 8 ≤ ob.toNat := by
    contrapose! hv
    simp [Instr.registersValid, hops, hv]
  rw [hexec, hexec, aluStep_invalid _ _ hbad, aluStep_invalid _ _ hbad]
  rfl

/-- An instruction that is no comparison keeps FL: it carries along even the FL that was there. -/
theorem exec_fl {i : Instr} {s t : State} (h : exec i s = .next t) (hcmp : i.aluOp ≠ some .cmp) : t.fl = s.fl := by
  have hsame : exec i s = replaceFl s.fl (exec i s) := exec_setFl (f := s.fl) hcmp fun _ => rfl
  rw [h] at hsame
  have ht : t = t.setFl s.fl := next_inj hsame
  rw [ht, State.setFl_fl]

/-- Settles O44: an instruction either carries a replaced FL along or, a valid comparison, ends in the same state. -/
theorem onlyCmpWritesFlagsAndOnlyBranchesReadEqual : Obligations.OnlyCmpWritesFlagsAndOnlyBranchesReadEqual := by
  refine ⟨fun i s t h hcmp => exec_fl h hcmp, fun i s t f h hE => ?_⟩
  by_cases hi : i.aluOp = some .cmp
  · by_cases hv : i.registersValid = true
    · exact ⟨t, (exec_setFl_of_cmp_valid hi hv s f).trans h, rfl, fun _ _ => rfl⟩
    · have hexec := exec_setFl_of_cmp_invalid hi hv s f
      rw [h] at hexec
      exact ⟨t.setFl f, hexec, rfl, fun _ hv' => absurd hv' hv⟩
  · have hexec := exec_setFl hi hE
    rw [h] at hexec
    exact ⟨t.setFl f, hexec, rfl, fun hi' => absurd hi' hi⟩

end Sys2Proof.Machine
end

section
/-! SUPPORT. Memory and the instructions (20_memory.md R41, R43): a write changes its own byte, PUSH and CALL alone
write one, and replacing memory with the same fetched bytes (and, for POP and RET, the same top of the stack) leaves no
trace in the other fields of what an instruction ends in. -/

namespace Sys2Proof.Machine

open Host (Outcome)

/-- Settles O2: the read-after-write law of a byte address, with wrap8 telling when two addresses are the same. -/
theorem memoryReadsTheLastWrite : Obligations.MemoryReadsTheLastWrite := by
  intro s m n v
  refine ⟨?_, rfl⟩
  rw [State.readMem_writeMem]
  simp only [wrap8_eq_iff, eq_comm]

/-! ## Writes -/

@[simp] theorem aluRoutine_mem (o : AluOp) (a b : Fin 8) (s : State) : (aluRoutine o a b s).mem = s.mem := by
  cases o <;> rfl

@[simp] theorem branchIf_mem (taken : Bool) (op : Byte) (a : Fin 8) (s : State) :
    (branchIf taken op a s).mem = s.mem := by
  cases taken <;> rfl

theorem State.addr_eq_of_pushWith_readMem_ne {s : State} {f : State → Byte} {addr : Byte}
    (h : (s.pushWith f).readMem addr ≠ s.readMem addr) : addr = s.sp - 1 := by
  by_contra haddr
  exact h (by rw [State.pushWith_readMem, if_neg haddr])

/-- A byte that an instruction changes is the one a PUSH or a CALL stores at the decremented SP. -/
theorem exec_readMem_ne {i : Instr} {s t : State} {addr : Byte} (h : exec i s = .next t)
    (hne : t.readMem addr ≠ s.readMem addr) : addr = s.sp - 1 ∧ ∃ oa : Byte, i = .push oa ∨ i = .call oa := by
  cases exec_endsIn h with
  | push oa a hi ha => exact ⟨State.addr_eq_of_pushWith_readMem_ne (by simpa using hne), oa, .inl hi⟩
  | call oa a hi ha => exact ⟨State.addr_eq_of_pushWith_readMem_ne (by simpa using hne), oa, .inr hi⟩
  | fatal | halt | load | print | pop | ret | jmp | jeq | jne | alu =>
    exact absurd (State.readMem_congr (by simp) addr) hne

/-! ## Reads -/

/-- The state with its memory replaced by `m`. -/
def State.setMem (s : State) (m : Memory) : State := { s with mem := m }

/-- The two states are the same in every field but memory. -/
def State.SameOffMemory (t' t : State) : Prop := t'.setMem t.mem = t

/-- If the second outcome is a next state, so is the first, and the two states are the same off memory. -/
def AgreeOffMemory (o' o : Outcome State Fault Refusal) : Prop :=
  ∀ t, o = .next t → ∃ t', o' = .next t' ∧ t'.SameOffMemory t

theorem AgreeOffMemory.next {t' t : State} (h : t'.SameOffMemory t) : AgreeOffMemory (.next t') (.next t) := by
  intro u hu
  cases hu
  exact ⟨t', rfl, h⟩

theorem State.SameOffMemory.autoAdvance {t' t : State} (h : t'.SameOffMemory t) (op : Byte) :
    (t'.autoAdvance op).SameOffMemory (t.autoAdvance op) := by
  rw [← h]
  unfold State.autoAdvance
  split <;> rfl

/-- Routines that agree off memory still do so after the sequencer's advance. -/
theorem AgreeOffMemory.next_autoAdvance {u' u : State} (h : u'.SameOffMemory u) (op : Byte) :
    AgreeOffMemory (.next (u'.autoAdvance op)) (.next (u.autoAdvance op)) :=
  .next (h.autoAdvance op)

section
variable {s : State} {m : Memory}

theorem aluRoutine_sameOffMemory (o : AluOp) (a b : Fin 8) :
    (aluRoutine o a b (s.setMem m)).SameOffMemory (aluRoutine o a b s) := by
  cases o <;> rfl

theorem branchIf_sameOffMemory (taken : Bool) (op : Byte) (a : Fin 8) :
    (branchIf taken op a (s.setMem m)).SameOffMemory (branchIf taken op a s) := by
  cases taken <;> rfl

/-- The fatal record holds the three fetched bytes, and reads no other (10_state.md R28). -/
theorem State.fatalRecord_setMem (h0 : (s.setMem m).readMem s.pc = s.readMem s.pc)
    (h1 : (s.setMem m).readMem (s.pc + 1) = s.readMem (s.pc + 1))
    (h2 : (s.setMem m).readMem (s.pc + 2) = s.readMem (s.pc + 2)) (k : FatalKind) :
    (s.setMem m).fatalRecord k = s.fatalRecord k := by
  rw [State.fatalRecord, State.fatalRecord, ← h0, ← h1, ← h2]
  rfl

variable (hrec : ∀ k, (s.setMem m).fatalRecord k = s.fatalRecord k)
include hrec

theorem AgreeOffMemory.raiseFatal (k : FatalKind) :
    AgreeOffMemory (.next ((s.setMem m).raiseFatal k)) (.next (s.raiseFatal k)) := by
  refine .next ?_
  rw [State.raiseFatal, hrec]
  rfl

theorem AgreeOffMemory.withReg {k' k : Fin 8 → Outcome State Fault Refusal} (h : ∀ i, AgreeOffMemory (k' i) (k i))
    (r : Byte) : AgreeOffMemory (withReg r (s.setMem m) k') (withReg r s k) := by
  unfold Machine.withReg
  cases regIndex r with
  | none => exact .raiseFatal hrec _
  | some i => exact h i

theorem aluStep_agreeOffMemory (o : AluOp) (op oa ob : Byte) :
    AgreeOffMemory (aluStep o op oa ob (s.setMem m)) (aluStep o op oa ob s) :=
  .withReg hrec (fun a => .withReg hrec (fun b => .next_autoAdvance (aluRoutine_sameOffMemory o a b) op) ob) oa

/-- No instruction but POP and RET reads memory after the fetch, and these read the top of the stack. -/
theorem exec_agreeOffMemory {i : Instr}
    (htop : (i = .ret ∨ ∃ oa : Byte, i = .pop oa) → (s.setMem m).top = s.top) :
    AgreeOffMemory (exec i (s.setMem m)) (exec i s) := by
  cases hi : i.aluOp with
  | some o =>
    obtain ⟨oa, ob, -, hexec⟩ := exec_of_aluOp hi
    rw [hexec, hexec]
    exact aluStep_agreeOffMemory hrec o _ oa ob
  | none =>
    cases i
    case halt => exact .next_autoAdvance (by rfl) opHalt
    case load oa imm => exact .withReg hrec (fun _ => .next_autoAdvance (by rfl) opLoad) oa
    case print oa => exact .withReg hrec (fun _ => .next_autoAdvance (by rfl) opPrint) oa
    case push oa => exact .withReg hrec (fun _ => .next_autoAdvance (by rfl) opPush) oa
    case call oa => exact .withReg hrec (fun _ => .next_autoAdvance (by rfl) opCall) oa
    case pop oa =>
      have htop : (s.setMem m).top = s.top := htop (.inr ⟨oa, rfl⟩)
      exact .withReg hrec (fun _ => .next_autoAdvance (by rw [htop]; rfl) opPop) oa
    case ret =>
      have htop : (s.setMem m).top = s.top := htop (.inl rfl)
      exact .next_autoAdvance (by rw [htop]; rfl) opRet
    case jmp oa => exact .withReg hrec (fun _ => .next_autoAdvance (by rfl) opJmp) oa
    case jeq oa => exact .withReg hrec (fun a => .next_autoAdvance (branchIf_sameOffMemory _ opJeq a) opJeq) oa
    case jne oa => exact .withReg hrec (fun a => .next_autoAdvance (branchIf_sameOffMemory _ opJne a) opJne) oa
    case reservedOperandCount | aluUnsupportedIdentifier | unrecognized => exact .raiseFatal hrec _
    all_goals cases hi

end

/-- A step reads the three fetched bytes and, for POP and RET, the top of the stack. -/
theorem step_agreeOffMemory {s : State} {m : Memory} (h0 : (s.setMem m).readMem s.pc = s.readMem s.pc)
    (h1 : (s.setMem m).readMem (s.pc + 1) = s.readMem (s.pc + 1))
    (h2 : (s.setMem m).readMem (s.pc + 2) = s.readMem (s.pc + 2))
    (htop : (s.fetch = .ret ∨ ∃ oa : Byte, s.fetch = .pop oa) → (s.setMem m).top = s.top) :
    AgreeOffMemory (step (s.setMem m)) (step s) := by
  by_cases hrun : s.run = .running
  · have hfetch : (s.setMem m).fetch = s.fetch := State.fetch_congr rfl h0 h1 h2
    rw [step_running hrun, step_running (s := s.setMem m) hrun, hfetch]
    exact exec_agreeOffMemory (State.fatalRecord_setMem h0 h1 h2) htop
  · rw [step_ended hrun, step_ended (s := s.setMem m) hrun]
    exact .next rfl

/-- Settles O46: what an instruction writes by its way to end, what a step reads by replacing the memory. -/
theorem onlyStackInstructionsAccessMemoryBeyondTheFetch :
    Obligations.OnlyStackInstructionsAccessMemoryBeyondTheFetch :=
  ⟨fun _ _ _ _ h hne => exec_readMem_ne h hne, fun _ t _ h0 h1 h2 htop h => step_agreeOffMemory h0 h1 h2 htop t h⟩

end Sys2Proof.Machine
end

section
/-! SUPPORT. The opcode byte's fields (30_encoding.md R62): a bit slice of a byte is the shift by its start followed by
the mask of its length, and a single bit is the slice of length 1. -/

namespace Sys2Proof

/-- The mask of `len` ones fits in a byte. -/
theorem toNat_onesMask {len : Nat} (h : len ≤ 8) : (BitVec.ofNat 8 (2 ^ len - 1)).toNat = 2 ^ len - 1 := by
  have hpow : 2 ^ len ≤ 2 ^ 8 := Nat.pow_le_pow_right (by decide) h
  rw [BitVec.toNat_ofNat, Nat.mod_eq_of_lt (by omega)]

theorem toNat_extractLsb'_eq_shift_mask (op : Byte) (start : Nat) {len : Nat} (h : len ≤ 8) :
    (op.extractLsb' start len).toNat = (op >>> start &&& BitVec.ofNat 8 (2 ^ len - 1)).toNat := by
  rw [BitVec.extractLsb'_toNat, BitVec.toNat_and, BitVec.toNat_ushiftRight, toNat_onesMask h,
    Nat.and_two_pow_sub_one_eq_mod]

theorem toNat_getLsbD_eq_shift_mask (op : Byte) (i : Nat) : (op.getLsbD i).toNat = (op >>> i &&& 1).toNat := by
  have hslice : (op.getLsbD i).toNat = (op.extractLsb' i 1).toNat := by
    rw [BitVec.getLsbD, Nat.toNat_testBit, BitVec.extractLsb'_toNat, Nat.shiftRight_eq_div_pow, pow_one]
  exact hslice.trans (toNat_extractLsb'_eq_shift_mask op i (by decide))

/-- Settles O4: cnt and id are slices of two and of four bits, alu and setpc are single bits. -/
theorem opcodeFieldsAreMaskAndShift : Obligations.OpcodeFieldsAreMaskAndShift := by
  intro op
  have hid := toNat_extractLsb'_eq_shift_mask op 0 (len := 4) (by decide)
  rw [BitVec.ushiftRight_zero] at hid
  exact ⟨toNat_extractLsb'_eq_shift_mask op 6 (len := 2) (by decide), toNat_getLsbD_eq_shift_mask op 5,
    toNat_getLsbD_eq_shift_mask op 4, hid⟩

end Sys2Proof
end

section
/-! SUPPORT. The ALU instructions that write a register (40_alu.md R101 to R103, R106): the result is wrap8 of the
integer result, and the step changes that register and pc alone. The opcode byte is left general, so that the canonical
instructions and their aliases (30_encoding.md R74) use the same lemma. -/

namespace Sys2Proof.Machine

/-! ## The results on integers -/

theorem aluResult_add (va vb : Byte) :
    aluResult .add va vb = some (wrap8 ((va.toNat : Int) + (vb.toNat : Int))) := by rw [wrap8_add]; rfl

theorem aluResult_sub (va vb : Byte) :
    aluResult .sub va vb = some (wrap8 ((va.toNat : Int) - (vb.toNat : Int))) := by rw [wrap8_sub]; rfl

theorem aluResult_mul (va vb : Byte) :
    aluResult .mul va vb = some (wrap8 ((va.toNat : Int) * (vb.toNat : Int))) := by rw [wrap8_mul]; rfl

/-! ## The distance of the advance -/

/-- How far the sequencer moves pc after the routine of opcode `op` (30_encoding.md R71, R72). -/
def opAdvance (op : Byte) : Byte := if opSetpc op then 0 else BitVec.ofNat 8 (opLength op)

theorem State.autoAdvance_eq_setPc (s : State) (op : Byte) : s.autoAdvance op = s.setPc (s.pc + opAdvance op) := by
  unfold State.autoAdvance opAdvance
  split
  · simp [State.setPc]
  · rfl

/-! ## The step -/

theorem aluRoutine_of_result {o : AluOp} {a b : Fin 8} {s : State} {v : Byte}
    (hv : aluResult o (s.reg a) (s.reg b) = some v) : aluRoutine o a b s = s.setReg a v := by
  simp only [aluRoutine, hv]

/-- An ALU step that has a result writes it to the first register and moves pc; every other field keeps its value. -/
theorem aluStep_of_result {o : AluOp} {op oa ob d v : Byte} {a b : Fin 8} {s : State} (hd : opAdvance op = d)
    (ha : oa.toNat = a.val) (hb : ob.toNat = b.val) (hv : aluResult o (s.reg a) (s.reg b) = some v) :
    aluStep o op oa ob s = .next { s with regs := s.regs.set a v, pc := s.pc + d } := by
  rw [aluStep_valid o op ha hb, aluRoutine_of_result hv, State.autoAdvance_eq_setPc, hd]
  rfl

/-- Settles O23: ADD is the ALU step of opcode 0xA0 whose result is the sum. -/
theorem addWritesTheSumModulo256 : Obligations.AddWritesTheSumModulo256 := by
  have hadvance : opAdvance opAdd = 3 := by decide
  exact ⟨fun oa ob => ⟨decode_add oa ob, rfl⟩,
    fun _ _ _ _ _ ha hb => aluStep_of_result hadvance ha hb (aluResult_add _ _),
    fun _ _ s hbad => aluStep_invalid .add opAdd hbad s⟩

/-- Settles O24: SUB is the ALU step of opcode 0xA1 whose result is the difference. -/
theorem subWritesTheDifferenceModulo256 : Obligations.SubWritesTheDifferenceModulo256 := by
  have hadvance : opAdvance opSub = 3 := by decide
  exact ⟨fun oa ob => ⟨decode_sub oa ob, rfl⟩,
    fun _ _ _ _ _ ha hb => aluStep_of_result hadvance ha hb (aluResult_sub _ _),
    fun _ _ s hbad => aluStep_invalid .sub opSub hbad s⟩

/-- Settles O25: MUL is the ALU step of opcode 0xA2 whose result is the product. -/
theorem mulWritesTheProductModulo256 : Obligations.MulWritesTheProductModulo256 := by
  have hadvance : opAdvance opMul = 3 := by decide
  exact ⟨fun oa ob => ⟨decode_mul oa ob, rfl⟩,
    fun _ _ _ _ _ ha hb => aluStep_of_result hadvance ha hb (aluResult_mul _ _),
    fun _ _ s hbad => aluStep_invalid .mul opMul hbad s⟩

end Sys2Proof.Machine
end

section
/-! SUPPORT. LOAD (41_dispatch_basic.md R122): a valid register operand takes the immediate and pc moves past the three
bytes; an invalid one ends in the fatal entry of `withReg`. -/

namespace Sys2Proof.Machine

theorem exec_load (oa imm : Byte) (s : State) :
    exec (.load oa imm) s = withReg oa s fun a => .next ((s.setReg a imm).autoAdvance opLoad) := rfl

theorem exec_load_valid {oa : Byte} {a : Fin 8} (ha : oa.toNat = a.val) (imm : Byte) (s : State) :
    exec (.load oa imm) s = .next { s with regs := s.regs.set a imm, pc := s.pc + 3 } := by
  have hadvance : opAdvance opLoad = 3 := by decide
  rw [exec_load, withReg_valid ha, State.autoAdvance_eq_setPc, hadvance]
  rfl

theorem exec_load_invalid {oa : Byte} (hoa : 8 ≤ oa.toNat) (imm : Byte) (s : State) :
    exec (.load oa imm) s = .next (s.raiseFatal .invalidRegisterIndex) := by
  rw [exec_load, withReg_invalid hoa]

/-- Settles O33: LOAD is a register write and an advance of three bytes, behind the check of its register operand. -/
theorem loadWritesTheImmediate : Obligations.LoadWritesTheImmediate :=
  ⟨fun oa imm => ⟨decode_load oa imm, rfl⟩, fun _ imm _ s ha => exec_load_valid ha imm s,
    fun _ imm s hoa => exec_load_invalid hoa imm s⟩

end Sys2Proof.Machine
end

section
/-! SUPPORT. JMP (43_control.md R162): a valid register operand becomes pc, and setpc keeps the sequencer from moving it
further; an invalid one ends in the fatal entry of `withReg`. -/

namespace Sys2Proof.Machine

theorem exec_jmp (oa : Byte) (s : State) :
    exec (.jmp oa) s = withReg oa s fun a => .next ((s.setPc (s.reg a)).autoAdvance opJmp) := rfl

/-- The sequencer leaves pc to a routine whose opcode has setpc set (30_encoding.md R72). -/
theorem State.autoAdvance_of_setpc {op : Byte} (h : opSetpc op = true) (s : State) : s.autoAdvance op = s := by
  rw [State.autoAdvance, if_pos h]

theorem exec_jmp_valid {oa : Byte} {a : Fin 8} (ha : oa.toNat = a.val) (s : State) :
    exec (.jmp oa) s = .next { s with pc := s.reg a } := by
  have hsetpc : opSetpc opJmp = true := by decide
  rw [exec_jmp, withReg_valid ha, State.autoAdvance_of_setpc hsetpc, State.setPc]

theorem exec_jmp_invalid {oa : Byte} (hoa : 8 ≤ oa.toNat) (s : State) :
    exec (.jmp oa) s = .next (s.raiseFatal .invalidRegisterIndex) := by
  rw [exec_jmp, withReg_invalid hoa]

/-- Settles O39: JMP writes its register's value to pc, which setpc keeps, behind the check of its register operand. -/
theorem jmpSetsPcToTheRegister : Obligations.JmpSetsPcToTheRegister :=
  ⟨fun oa ob => ⟨decode_jmp oa ob, rfl, by decide, by decide⟩, fun _ _ s ha => exec_jmp_valid ha s,
    fun _ s hoa => exec_jmp_invalid hoa s⟩

end Sys2Proof.Machine
end

section
/-! SUPPORT. The terminal run states (60_exceptions.md R187, R195): no step leaves HALTED or FATAL_ERROR, so neither does a
run of any length, and a host move other than a restart keeps the run state and the fatal record. -/

namespace Sys2Proof.Machine

/-! ## Steps and runs of an ended machine -/

section
variable {s : State} (h : s.run ≠ .running)
include h

theorem stepPort_ended : stepPort s = s := by rw [stepPort, step_ended h]

theorem run_ended (n : Nat) : Host.Core.run core n s = .next s := by
  induction n with
  | zero => exact run_zero s
  | succ n ih => rw [run_succ (step_ended h), ih]

theorem runPort_ended (n : Nat) : runPort n s = .ended s := by
  cases hrun : s.run with
  | running => exact absurd hrun h
  | halted | fatalError => unfold runPort; rw [hrun]

end

/-! ## The host's moves -/

theorem Session.apply_load {addr v : Byte} {x y : Session} (h : Session.apply (.load addr v) x = some y) :
    y.block = x.block.writeMem addr v := by
  cases hstarted : x.started with
  | true => simp [Session.apply, hstarted] at h
  | false => simp only [Session.apply, hstarted] at h; cases h; rfl

theorem Session.apply_step_ended {x : Session} (h : x.block.run ≠ .running) :
    Session.apply .step x = some { block := x.block, started := true } := by
  rw [Session.apply, stepPort_ended h]

theorem Session.apply_run_ended {x : Session} (h : x.block.run ≠ .running) (bound : Nat) :
    Session.apply (.run bound) x = some { block := x.block, started := true } := by
  rw [Session.apply, runPort_ended h]

/-- Settles O12, by the host's moves: a restart resets, a load writes memory alone, and a step or a run does nothing. -/
theorem endedMachineStaysEndedUntilRestart : Obligations.EndedMachineStaysEndedUntilRestart := by
  refine fun s hs => ⟨run_ended hs, fun e started x hx => ?_⟩
  cases e with
  | restart => cases hx; exact .inl ⟨rfl, rfl⟩
  | load addr v =>
    rw [Session.apply_load hx]
    exact .inr ⟨nofun, rfl, rfl⟩
  | step =>
    cases (Session.apply_step_ended hs).symm.trans hx
    exact .inr ⟨nofun, rfl, rfl⟩
  | run bound =>
    cases (Session.apply_run_ended hs bound).symm.trans hx
    exact .inr ⟨nofun, rfl, rfl⟩

end Sys2Proof.Machine
end

section
/-! SUPPORT. UnsupportedOperation (60_exceptions.md R182, 30_encoding.md R68): the fields that put an opcode byte in the
class, the fatal entry its step takes, and the end of the run. -/

namespace Sys2Proof.Machine

theorem aluOpOfId_eq_none : ∀ id : BitVec 4, aluOpOfId id = none ↔ id ∉ [(0 : BitVec 4), 1, 2, 7] := by decide

theorem isUnsupportedAlu_iff (op : Byte) :
    isUnsupportedAlu op = true ↔ op.getLsbD 5 = true ∧ opCnt op ≠ 3 ∧ opId op ∉ [(0 : BitVec 4), 1, 2, 7] := by
  rw [← aluOpOfId_eq_none, ← Option.isNone_iff_eq_none, isUnsupportedAlu, isReservedCount, opAlu, Bool.and_eq_true,
    Bool.and_eq_true, Bool.not_eq_true', beq_eq_false_iff_ne, and_assoc, and_left_comm]

/-- A quarter of the opcode bytes has one operand count, and each count but 11 has 24 bytes of the class: two settings of
`setpc` and twelve identifiers. -/
theorem countP_isUnsupportedAlu_of_cnt : ∀ cnt : Fin 4,
    (List.range 64).countP (fun n => isUnsupportedAlu (BitVec.ofNat 8 (64 * cnt.val + n))) =
      if cnt = 3 then 0 else 24 := by decide

theorem range_mul_eq_flatMap (k m : Nat) :
    List.range (k * m) = (List.finRange m).flatMap fun i => (List.range k).map (k * i.val + ·) := by
  induction m with
  | zero => rfl
  | succ m ih => simp [Nat.mul_succ, List.range_add, ih, List.finRange_succ_last, List.flatMap_append, List.flatMap_map]

theorem countP_isUnsupportedAlu : (List.range 256).countP (fun n => isUnsupportedAlu (BitVec.ofNat 8 n)) = 72 := by
  rw [range_mul_eq_flatMap 64 4, List.countP_flatMap]
  simp only [Function.comp_def, List.countP_map, countP_isUnsupportedAlu_of_cnt]
  decide

theorem exec_aluUnsupportedIdentifier (op : Byte) (s : State) :
    exec (.aluUnsupportedIdentifier op) s = .next (s.raiseFatal .unsupportedOperation) := rfl

theorem step_unsupportedAlu {s : State} (hrun : s.run = .running) (hop : isUnsupportedAlu (s.readMem s.pc) = true) :
    step s = .next (s.raiseFatal .unsupportedOperation) := by
  rw [step_running hrun, State.fetch, decode_unsupported _ _ hop, exec_aluUnsupportedIdentifier]

theorem run_raiseFatal (s : State) (k : FatalKind) (n : Nat) :
    Host.Core.run core n (s.raiseFatal k) = .next (s.raiseFatal k) :=
  run_ended (by simp) n

/-- Settles O19: the fields select the unsupported class, whose fatal entry no later step leaves. -/
theorem unsupportedIdentifierAbortsTheRun : Obligations.UnsupportedIdentifierAbortsTheRun := by
  constructor
  · intro s hrun halu hcnt hid
    have hop : isUnsupportedAlu (s.readMem s.pc) = true := (isUnsupportedAlu_iff _).mpr ⟨halu, hcnt, hid⟩
    exact ⟨s.raiseFatal .unsupportedOperation, s.fatalRecord .unsupportedOperation, step_unsupportedAlu hrun hop, rfl, rfl,
      rfl, rfl, run_raiseFatal s .unsupportedOperation⟩
  · refine (List.countP_congr fun n _ => ?_).trans countP_isUnsupportedAlu
    simp [isUnsupportedAlu_iff, and_assoc]

end Sys2Proof.Machine
end

section
/-! SUPPORT. The opcode map row by row (30_encoding.md R67 to R69, R74): what the decoder makes of the opcode of a row
and what such an instruction encodes to, for the round trip, the routing and the count of the classes. -/

namespace Sys2Proof

/-! ## The rows -/

theorem decode_aluRow : ∀ r ∈ aluTable, ∀ oa ob : Byte, decode r.1 oa ob = r.2 oa ob := by
  intro r hr oa ob
  fin_cases hr <;> rfl

theorem decode_dispatchRow : ∀ r ∈ dispatchTable, ∀ oa ob : Byte, decode r.1 oa ob = r.2 oa ob := by
  intro r hr oa ob
  fin_cases hr <;> rfl

/-- An ALU row reads both operand bytes as registers and runs the operation its identifier selects. -/
theorem aluRow_instr : ∀ r ∈ aluTable, ∀ oa ob : Byte, let i := r.2 oa ob
    i.wellFormed = true ∧ i.opcode = r.1 ∧ i.operandBytes = [oa, ob] ∧ i.registerOperands = [oa, ob] ∧
      i.aluOp = aluOpOfId (opId r.1) ∧ i.faultKind = none := by
  intro r hr oa ob
  fin_cases hr <;> exact ⟨rfl, rfl, rfl, rfl, rfl, rfl⟩

theorem dispatchRow_instr : ∀ r ∈ dispatchTable, ∀ oa ob : Byte, let i := r.2 oa ob
    i.wellFormed = true ∧ i.opcode = r.1 ∧ i.operandBytes <+: [oa, ob] ∧ i.aluOp = none ∧ i.faultKind = none := by
  intro r hr oa ob
  fin_cases hr <;> exact ⟨rfl, rfl, by simp [Instr.operandBytes], rfl, rfl⟩

/-- Every dispatch row but HALT and RET names one register, its first operand byte. -/
theorem dispatchRow_registerOperands : ∀ r ∈ dispatchTable, ∀ oa ob : Byte,
    (r.2 oa ob).registerOperands = if r.1 = 0x01 ∨ r.1 = 0x11 then [] else [oa] := by
  intro r hr oa ob
  fin_cases hr <;> rfl

/-! ## The classes by the fields of the opcode byte -/

theorem isReservedCount_iff (op : Byte) : isReservedCount op = true ↔ opCnt op = 3 := beq_iff_eq

theorem isUnrecognized_iff (op : Byte) :
    isUnrecognized op = true ↔ opCnt op ≠ 3 ∧ opAlu op = false ∧ op ∉ dispatchOpcodes := by
  simp [isUnrecognized, isReservedCount, and_assoc]

theorem exists_dispatchRow {op : Byte} (h : op ∈ dispatchOpcodes) : ∃ r ∈ dispatchTable, r.1 = op :=
  List.mem_map.mp h

theorem mem_aluOpcodes : ∀ op : Byte, opCnt op ≠ 3 → opAlu op = true → opId op ∈ [(0 : BitVec 4), 1, 2, 7] →
    op ∈ aluTable.map Prod.fst := by decide

theorem exists_aluRow {op : Byte} (hcnt : opCnt op ≠ 3) (halu : opAlu op = true)
    (hid : opId op ∈ [(0 : BitVec 4), 1, 2, 7]) : ∃ r ∈ aluTable, r.1 = op :=
  List.mem_map.mp (mem_aluOpcodes op hcnt halu hid)

/-! ## The round trip -/

/-- Settles O6: a fault class by the byte of its class, and every other instruction by the decoder's answer on its own
opcode byte. -/
theorem decodingAnEncodedInstructionGivesItBack : Obligations.DecodingAnEncodedInstructionGivesItBack := by
  intro i hwf tail
  cases i
  case reservedOperandCount op => exact decode_reserved _ _ hwf
  case aluUnsupportedIdentifier op => exact decode_unsupported _ _ hwf
  case unrecognized op => exact decode_unrecognized _ _ hwf
  all_goals simp [encode, Instr.opcode, Instr.operandBytes]

/-- Settles O7, by the class of the opcode byte. -/
theorem encodingADecodedInstructionGivesItsBytesBack : Obligations.EncodingADecodedInstructionGivesItsBytesBack := by
  intro op oa ob
  obtain h | h | h | h | h := opcode_cases op
  · rw [decode_reserved oa ob h]
    exact ⟨h, [oa, ob], rfl⟩
  · rw [decode_unsupported oa ob h]
    exact ⟨h, [oa, ob], rfl⟩
  · rw [decode_unrecognized oa ob h]
    exact ⟨h, [oa, ob], rfl⟩
  · obtain ⟨r, hr, rfl⟩ := exists_dispatchRow h
    obtain ⟨hwf, hop, hoperands, -⟩ := dispatchRow_instr r hr oa ob
    rw [decode_dispatchRow r hr, encode, hop]
    exact ⟨hwf, (List.prefix_cons_inj _).mpr hoperands⟩
  · obtain ⟨r, hr, rfl⟩ := List.mem_map.mp h
    obtain ⟨hwf, hop, hoperands, -⟩ := aluRow_instr r hr oa ob
    rw [decode_aluRow r hr, encode, hop, hoperands]
    exact ⟨hwf, List.prefix_rfl⟩

/-! ## The routing -/

theorem aluOpOfId_of_mem : ∀ p ∈ [((0 : BitVec 4), AluOp.add), (1, .sub), (2, .mul), (7, .cmp)],
    p.1 ∈ [(0 : BitVec 4), 1, 2, 7] ∧ aluOpOfId p.1 = some p.2 := by decide

/-- Settles O8: each clause is the decoder's answer on one class of opcode bytes. -/
theorem decodingFollowsTheFieldsOfTheOpcode : Obligations.DecodingFollowsTheFieldsOfTheOpcode := by
  intro op oa ob
  refine ⟨fun hcnt => decode_reserved oa ob ((isReservedCount_iff op).mpr hcnt),
    fun hcnt halu => ⟨fun p hp hid => ?_,
      fun hid => decode_unsupported oa ob ((Machine.isUnsupportedAlu_iff op).mpr ⟨halu, hcnt, hid⟩)⟩,
    fun hcnt halu => ⟨fun hop => ?_,
      fun hop => decode_unrecognized oa ob ((isUnrecognized_iff op).mpr ⟨hcnt, halu, hop⟩)⟩⟩
  · obtain ⟨hmem, hsel⟩ := aluOpOfId_of_mem p hp
    obtain ⟨r, hr, rfl⟩ := exists_aluRow hcnt halu (hid ▸ hmem)
    obtain ⟨-, hop, -, hregs, haluOp, -⟩ := aluRow_instr r hr oa ob
    rw [decode_aluRow r hr, haluOp, hid]
    exact ⟨hsel, hop, hregs⟩
  · obtain ⟨r, hr, rfl⟩ := exists_dispatchRow (op := op) hop
    obtain ⟨-, hop, -, haluOp, hfault⟩ := dispatchRow_instr r hr oa ob
    rw [decode_dispatchRow r hr]
    exact ⟨hop, haluOp, hfault⟩

/-- Settles O5: each word is the opcode of a row, or a byte of a fault class. -/
theorem writtenWordsDecodeToTheirInstructions : Obligations.WrittenWordsDecodeToTheirInstructions := by
  unfold Obligations.WrittenWordsDecodeToTheirInstructions
  decide

/-! ## The count of the classes -/

/-- The opcode bytes quarter by quarter, one quarter for each operand count. -/
theorem countP_range_256 (p : Nat → Bool) : (List.range 256).countP p =
    ((List.finRange 4).map fun cnt => (List.range 64).countP fun n => p (64 * cnt.val + n)).sum := by
  rw [Machine.range_mul_eq_flatMap 64 4, List.countP_flatMap]
  simp only [Function.comp_def, List.countP_map]

/-- Settles O9, by counting each class within the quarters. -/
theorem opcodeSpaceSplitsIntoTheSpecsClasses : Obligations.OpcodeSpaceSplitsIntoTheSpecsClasses := by
  unfold Obligations.OpcodeSpaceSplitsIntoTheSpecsClasses
  simp only [countP_range_256]
  refine ⟨?_, ?_, ?_, ?_, ?_, ?_⟩ <;> decide

end Sys2Proof
end

section
/-! SUPPORT. The step runs what it fetches (30_encoding.md R64, R70), the bytes of a placed table word included
(log 22). -/

namespace Sys2Proof.Machine

/-- Settles O10: the fetch is the decoder on the three bytes from pc on. -/
theorem stepRunsTheDecodedInstruction : Obligations.StepRunsTheDecodedInstruction := by
  intro s i hrun hi
  rw [step_running hrun, State.fetch, hi]

/-- The three bytes of a placed word lie at three different addresses, whatever pc is. -/
theorem State.fetch_withFetchWord (s : State) (nbits w : Nat) :
    (s.withFetchWord nbits w).fetch = decode (tableByte nbits w 0) (tableByte nbits w 1) (tableByte nbits w 2) := by
  have hread (a : Byte) : (s.withFetchWord nbits w).readMem a =
      if a = s.pc + 2 then tableByte nbits w 2 else if a = s.pc + 1 then tableByte nbits w 1
      else if a = s.pc then tableByte nbits w 0 else s.readMem a := by
    simp only [← State.readMem_writeMem]
    rfl
  have hpc : (s.withFetchWord nbits w).pc = s.pc := rfl
  simp [State.fetch, hpc, hread]

/-- Settles O11: a state with a placed word is RUNNING and fetches that word. -/
theorem placedTableWordIsTheNextInstruction : Obligations.PlacedTableWordIsTheNextInstruction := by
  intro s nbits w i hi
  have hrun : (s.withFetchWord nbits w).run = .running := rfl
  rw [step_running hrun, State.fetch_withFetchWord, Option.some.inj hi]

end Sys2Proof.Machine
end

section
/-! SUPPORT. The fatal-error entry (60_exceptions.md R181 to R185): the three fault classes and every named register
operand of 8 or more take it. -/

namespace Sys2Proof.Machine

/-- Settles O20: the meaning of each fault class is the entry with the kind of the class. -/
theorem faultClassesTakeTheFatalEntry : Obligations.FaultClassesTakeTheFatalEntry :=
  fun _ _ => ⟨rfl, rfl, rfl⟩

/-- A named register operand of 8 or more, in either place. -/
theorem exec_invalid {i : Instr} (h : ∃ r ∈ i.registerOperands, 8 ≤ r.toNat) (s : State) :
    exec i s = .next (s.raiseFatal .invalidRegisterIndex) := by
  cases hi : i.aluOp with
  | some o =>
    obtain ⟨oa, ob, hregs, hexec⟩ := exec_of_aluOp hi
    rw [hexec]
    exact aluStep_invalid o _ (by simpa [hregs] using h) s
  | none =>
    cases i
    case load | print | push | pop | call | jmp | jeq | jne =>
      exact withReg_invalid (by simpa [Instr.registerOperands] using h) _ _
    case halt | ret | reservedOperandCount | aluUnsupportedIdentifier | unrecognized =>
      simp [Instr.registerOperands] at h
    all_goals cases hi

/-- Settles O21: the fatal entry of the register check, written out. -/
theorem registerOperandOfEightOrMoreIsFatal : Obligations.RegisterOperandOfEightOrMoreIsFatal :=
  fun _ s h => exec_invalid h s

end Sys2Proof.Machine
end

section
/-! SUPPORT. HALT and PRINT (41_dispatch_basic.md R121, R123), JEQ and JNE (43_control.md R163, R164). -/

namespace Sys2Proof.Machine

/-- Settles O32: HALT writes the run state, and the advance after it moves pc alone. -/
theorem haltEndsTheRunCleanly : Obligations.HaltEndsTheRunCleanly :=
  fun s => ⟨s.halt.autoAdvance opHalt, rfl, by simp⟩

/-- Settles O34: PRINT is one `emit` and an advance of two bytes. -/
theorem printAppendsOneByteToTheOutput : Obligations.PrintAppendsOneByteToTheOutput := by
  intro oa a s ha
  have hadvance : opAdvance opPrint = 2 := by decide
  have hexec : exec (.print oa) s = .next ((s.emit (s.reg a)).autoAdvance opPrint) := withReg_valid ha s _
  rw [hexec, State.autoAdvance_eq_setPc, hadvance]
  rfl

/-- A branch jumps to its register or goes on after its own bytes; nothing but pc changes. -/
theorem branchIf_eq_setPc (taken : Bool) (op : Byte) (a : Fin 8) (s : State) :
    branchIf taken op a s = s.setPc (if taken then s.reg a else s.nextPc op) := by
  cases taken <;> rfl

theorem exec_jeq_valid {oa : Byte} {a : Fin 8} (ha : oa.toNat = a.val) (s : State) :
    exec (.jeq oa) s = .next (s.setPc (if s.flagE then s.reg a else s.nextPc opJeq)) := by
  have hsetpc : opSetpc opJeq = true := by decide
  have hexec : exec (.jeq oa) s = .next ((branchIf s.flagE opJeq a s).autoAdvance opJeq) := withReg_valid ha s _
  rw [hexec, State.autoAdvance_of_setpc hsetpc, branchIf_eq_setPc]

theorem exec_jne_valid {oa : Byte} {a : Fin 8} (ha : oa.toNat = a.val) (s : State) :
    exec (.jne oa) s = .next (s.setPc (if !s.flagE then s.reg a else s.nextPc opJne)) := by
  have hsetpc : opSetpc opJne = true := by decide
  have hexec : exec (.jne oa) s = .next ((branchIf (!s.flagE) opJne a s).autoAdvance opJne) := withReg_valid ha s _
  rw [hexec, State.autoAdvance_of_setpc hsetpc, branchIf_eq_setPc]

/-- Settles O40: the flag E is bit 0 of FL, and JEQ is two bytes long. -/
theorem jeqJumpsExactlyWhenEqualIsSet : Obligations.JeqJumpsExactlyWhenEqualIsSet :=
  fun _ _ s ha => exec_jeq_valid ha s

/-- Settles O41: the flag E is bit 0 of FL, and JNE is two bytes long. -/
theorem jneJumpsExactlyWhenEqualIsClear : Obligations.JneJumpsExactlyWhenEqualIsClear := by
  intro oa a s ha
  rw [exec_jne_valid ha]
  simp only [Bool.not_eq_true']
  rfl

end Sys2Proof.Machine
end

section
/-! SUPPORT. The stack instructions (42_stack.md, 43_control.md R160, R161, R166): what PUSH, POP, CALL and RET leave in
the registers, at the stack slot and in pc, and what a push followed by a pop comes to. -/

namespace Sys2Proof.Machine

/-! ## A push and a pop -/

theorem State.pushWith_reg_eq (s : State) (f : State → Byte) (r : Fin 8) :
    (s.pushWith f).reg r = if r = 7 then s.reg 7 - 1 else s.reg r := by
  rw [State.pushWith_reg, State.reg_setSp, State.sp]

@[simp] theorem State.top_setPc (s : State) (v : Byte) : (s.setPc v).top = s.top := rfl

theorem State.top_pushWith (s : State) (f : State → Byte) : (s.pushWith f).top = f (s.setSp (s.sp - 1)) := by
  rw [State.top, State.pushWith_sp, State.pushWith_readMem, if_pos rfl]

/-- The byte a PUSH stores is its register after the decrement of SP, at the decremented SP. -/
theorem State.readMem_push (s : State) (a : Fin 8) (addr : Byte) :
    (s.pushWith fun s₁ => s₁.reg a).readMem addr =
      if addr = s.reg 7 - 1 then (if a = 7 then s.reg 7 - 1 else s.reg a) else s.readMem addr := by
  rw [State.pushWith_readMem, State.reg_setSp, State.sp]

/-- A pop into R7 increments what it loaded; any other pop increments the old SP. -/
theorem State.reg_pop (s : State) (a r : Fin 8) : (s.setReg a s.top).incSp.reg r =
    if r = 7 then (if a = 7 then s.top + 1 else s.reg 7 + 1) else if r = a then s.top else s.reg r := by
  rw [State.incSp_reg, State.sp, State.reg_setReg, State.reg_setReg, ite_add]
  simp only [eq_comm (a := a)]

/-! ## The instructions -/

theorem exec_push_valid {oa : Byte} {a : Fin 8} (ha : oa.toNat = a.val) (s : State) :
    exec (.push oa) s = .next ((s.pushWith fun s₁ => s₁.reg a).setPc (s.pc + 2)) := by
  have hexec : exec (.push oa) s = .next ((s.pushWith fun s₁ => s₁.reg a).autoAdvance opPush) := withReg_valid ha s _
  have hadvance : opAdvance opPush = 2 := by decide
  rw [hexec, State.autoAdvance_eq_setPc, hadvance, State.pushWith_pc]

theorem exec_pop_valid {oa : Byte} {a : Fin 8} (ha : oa.toNat = a.val) (s : State) :
    exec (.pop oa) s = .next ((s.setReg a s.top).incSp.setPc (s.pc + 2)) := by
  have hexec : exec (.pop oa) s = .next ((s.setReg a s.top).incSp.autoAdvance opPop) := withReg_valid ha s _
  have hadvance : opAdvance opPop = 2 := by decide
  rw [hexec, State.autoAdvance_eq_setPc, hadvance, State.incSp_pc, State.setReg_pc]

theorem exec_call_valid {oa : Byte} {a : Fin 8} (ha : oa.toNat = a.val) (s : State) :
    exec (.call oa) s = .next ((s.pushWith fun s₀ => s₀.pc + 2).setPc (if a = 7 then s.reg 7 - 1 else s.reg a)) := by
  have hexec : exec (.call oa) s = .next (((s.pushWith fun s₀ => s₀.pc + 2).setPc
      ((s.pushWith fun s₀ => s₀.pc + 2).reg a)).autoAdvance opCall) := withReg_valid ha s _
  have hsetpc : opSetpc opCall = true := by decide
  rw [hexec, State.autoAdvance_of_setpc hsetpc, State.pushWith_reg_eq]

theorem exec_ret (s : State) : exec .ret s = .next (s.setPc s.top).incSp := by
  have hsetpc : opSetpc opRet = true := by decide
  have hexec : exec .ret s = .next ((s.setPc s.top).incSp.autoAdvance opRet) := rfl
  rw [hexec, State.autoAdvance_of_setpc hsetpc]

/-- Settles O35, by the registers and the memory of a push. -/
theorem pushStoresBelowTheStackPointer : Obligations.PushStoresBelowTheStackPointer :=
  fun _ a s ha => ⟨_, exec_push_valid ha s, fun r => by rw [State.reg_setPc, State.pushWith_reg_eq],
    fun addr => by rw [State.readMem_setPc, State.readMem_push], rfl, rfl, rfl, rfl, rfl⟩

/-- Settles O36, by the registers of a pop. -/
theorem popLoadsTheTopOfTheStack : Obligations.PopLoadsTheTopOfTheStack :=
  fun _ a s ha => ⟨_, exec_pop_valid ha s, s.reg_pop a, rfl, rfl, rfl, rfl, rfl, rfl⟩

/-- Settles O37: CALL is a push of pc + 2, and its target is a register after that push. -/
theorem callPushesTheReturnAddressAndJumps : Obligations.CallPushesTheReturnAddressAndJumps :=
  fun _ _ s ha => ⟨_, exec_call_valid ha s, fun r => by rw [State.reg_setPc, State.pushWith_reg_eq],
    fun addr => by rw [State.readMem_setPc, State.pushWith_readMem]; rfl, rfl, rfl, rfl, rfl, rfl⟩

/-- Settles O38: RET is a pop into pc. -/
theorem retReturnsToThePoppedAddress : Obligations.RetReturnsToThePoppedAddress :=
  fun s => ⟨_, exec_ret s, rfl, (s.setPc s.top).incSp_reg, rfl, rfl, rfl, rfl, rfl⟩

/-! ## The round trips -/

theorem State.regs_ext {s t : State} (h : ∀ r : Fin 8, s.reg r = t.reg r) : s.regs = t.regs :=
  Vector.ext fun r hr => h ⟨r, hr⟩

/-- The registers after PUSH Ra and POP Rb: the popped byte is the one just pushed. -/
theorem State.reg_push_pop (s : State) (a b r : Fin 8) (v : Byte) :
    let u := (s.pushWith fun s₁ => s₁.reg a).setPc v
    (u.setReg b u.top).incSp.reg r =
      if r = 7 then (if b = 7 then (if a = 7 then s.reg 7 - 1 else s.reg a) + 1 else s.reg 7)
      else if r = b then (if a = 7 then s.reg 7 - 1 else s.reg a) else s.reg r := by
  intro u
  have htop : u.top = if a = 7 then s.reg 7 - 1 else s.reg a := by
    rw [State.top_setPc, State.top_pushWith, State.reg_setSp, State.sp]
  have hreg (j : Fin 8) : u.reg j = if j = 7 then s.reg 7 - 1 else s.reg j := by
    rw [State.reg_setPc, State.pushWith_reg_eq]
  rw [State.reg_pop, htop, hreg, hreg, if_pos rfl, sub_add_cancel]
  split <;> rfl

/-- Settles O42, by the registers after the two instructions; the POP reads memory and writes none. -/
theorem pushThenPopRoundTrips : Obligations.PushThenPopRoundTrips := by
  constructor
  · intro oa a s ha
    refine ⟨_, _, exec_push_valid ha s, exec_pop_valid ha _, State.regs_ext fun r => ?_, rfl, rfl, rfl, ?_, fun h7 => ?_,
      fun addr haddr => ?_⟩
    · refine (s.reg_push_pop a a r _).trans ?_
      rcases eq_or_ne a 7 with rfl | ha7
      · rw [if_pos rfl, if_pos rfl, sub_add_cancel]
        split_ifs with h7
        · rw [h7]
        · rfl
      · rw [if_neg ha7, if_neg ha7]
        split_ifs with h7 hra
        · rw [h7]
        · rw [hra]
        · rfl
    · simp [add_assoc]
    · exact (s.readMem_push a _).trans (by rw [if_pos rfl, if_neg h7])
    · exact (s.readMem_push a addr).trans (if_neg haddr)
  · intro oa ob a b s ha hb ha7 hb7
    refine ⟨_, _, exec_push_valid ha s, exec_pop_valid hb _, ?_, fun r hr => ?_⟩
    · exact (s.reg_push_pop a b b _).trans (by rw [if_neg hb7, if_pos rfl, if_neg ha7])
    · refine (s.reg_push_pop a b r _).trans ?_
      by_cases hr7 : r = 7 <;> simp [hr, hr7, hb7]

/-- Settles O43: the byte RET pops is the return address CALL pushed, and its increment undoes CALL's decrement. -/
theorem callThenRetReturnsAfterTheCall : Obligations.CallThenRetReturnsAfterTheCall := by
  intro oa a s ha
  refine ⟨_, exec_call_valid ha s, fun u hsp hbyte => ⟨_, exec_ret u, ?_, ?_⟩⟩
  · have hu : u.top = (s.pushWith fun s₀ => s₀.pc + 2).top := by
      rw [State.top, State.sp, hsp]
      exact hbyte
    exact hu.trans (s.top_pushWith _)
  · rw [State.incSp_reg, if_pos rfl, State.sp_setPc, State.sp, hsp, State.reg_setPc, State.pushWith_reg_eq, if_pos rfl,
      sub_add_cancel]

/-- Settles O51: the next fetch reads memory after the store, and the PUSH itself used the operand it had fetched. -/
theorem pushedByteIsSeenByTheNextFetch : Obligations.PushedByteIsSeenByTheNextFetch := by
  intro s oa a hrun hfetch ha
  have hstep : step s = .next ((s.pushWith fun s₁ => s₁.reg a).setPc (s.pc + 2)) := by
    rw [step_running hrun, hfetch, exec_push_valid ha]
  have hslot : (s.pushWith fun s₁ => s₁.reg a).readMem (s.sp - 1) = if a = 7 then s.sp - 1 else s.reg a :=
    (s.readMem_push a _).trans (if_pos rfl)
  exact ⟨fun hnext => ⟨_, hstep, rfl, hnext ▸ hslot⟩, fun hown => ⟨_, hstep, rfl, hown ▸ hslot⟩⟩

end Sys2Proof.Machine
end

section
/-! SUPPORT. CMP (40_alu.md R104) and the ALU aliases (30_encoding.md R74): each of them is the ALU step of its own
opcode byte, so the lemmas about the ALU step say what it does and how far it moves pc. -/

namespace Sys2Proof.Machine

/-! ## The comparison -/

theorem compareFlags_toNat (va vb : Byte) : compareFlags va vb =
    if va.toNat = vb.toNat then 0b00000001 else if va.toNat < vb.toNat then 0b00000100 else 0b00000010 := by
  simp only [compareFlags, ← BitVec.toNat_inj, BitVec.lt_def]
  rfl

/-- A comparison writes FL and moves pc; every other field keeps its value. -/
theorem aluStep_cmp {op oa ob d : Byte} {a b : Fin 8} {s : State} (hd : opAdvance op = d) (ha : oa.toNat = a.val)
    (hb : ob.toNat = b.val) : aluStep .cmp op oa ob s = .next
      { s with
        fl := if (s.reg a).toNat = (s.reg b).toNat then 0b00000001
              else if (s.reg a).toNat < (s.reg b).toNat then 0b00000100 else 0b00000010
        pc := s.pc + d } := by
  rw [aluStep_valid .cmp op ha hb, State.autoAdvance_eq_setPc, hd, ← compareFlags_toNat]
  rfl

/-- Settles O26: CMP is the comparison of opcode 0xA7. -/
theorem cmpWritesExactlyOneFlag : Obligations.CmpWritesExactlyOneFlag := by
  have hadvance : opAdvance opCmp = 3 := by decide
  exact fun _ _ _ _ _ ha hb => aluStep_cmp hadvance ha hb

/-! ## The aliases -/

/-- The byte `op` is an ALU row of operation `o`: what `mk` makes of its operands, and the distance it moves pc. -/
structure IsAluRow (o : AluOp) (op : Byte) (mk : Byte → Byte → Instr) (distance : Byte) : Prop where
  row : (op, mk) ∈ aluTable
  selects : aluOpOfId (opId op) = some o
  advance : opAdvance op = distance

namespace IsAluRow

variable {o : AluOp} {op d oa ob : Byte} {mk : Byte → Byte → Instr} {a b : Fin 8} {s : State}
  (h : IsAluRow o op mk d)
include h

theorem decode_eq (oa ob : Byte) : decode op oa ob = mk oa ob := decode_aluRow _ h.row oa ob

/-- An ALU row executes as the ALU step of its own opcode byte. -/
theorem exec_eq (oa ob : Byte) (s : State) : exec (mk oa ob) s = aluStep o op oa ob s := by
  obtain ⟨-, hop, -, hregs, haluOp, -⟩ := aluRow_instr _ h.row oa ob
  obtain ⟨oa', ob', hregs', hexec⟩ := exec_of_aluOp (haluOp.trans h.selects)
  rw [hregs] at hregs'
  obtain ⟨rfl, rfl⟩ : oa = oa' ∧ ob = ob' := by simpa using hregs'
  rw [hexec, hop]

theorem exec_of_result {v : Byte} (ha : oa.toNat = a.val) (hb : ob.toNat = b.val)
    (hv : aluResult o (s.reg a) (s.reg b) = some v) :
    exec (mk oa ob) s = .next { s with regs := s.regs.set a v, pc := s.pc + d } :=
  (h.exec_eq oa ob s).trans (aluStep_of_result h.advance ha hb hv)

theorem exec_invalid (hbad : 8 ≤ oa.toNat ∨ 8 ≤ ob.toNat) :
    exec (mk oa ob) s = .next (s.raiseFatal .invalidRegisterIndex) :=
  (h.exec_eq oa ob s).trans (aluStep_invalid o op hbad s)

end IsAluRow

/-- Settles O27: the ADD aliases are ALU rows whose result is the sum. -/
theorem addAliasesRunAddWithTheirOwnAdvance : Obligations.AddAliasesRunAddWithTheirOwnAdvance := by
  intro p hp oa ob
  have hrow : IsAluRow .add p.1 p.2.1 p.2.2 := by
    fin_cases hp <;> exact ⟨by simp [aluTable, aluAliases], by decide, by decide⟩
  exact ⟨hrow.decode_eq oa ob, fun _ _ _ ha hb => hrow.exec_of_result ha hb (aluResult_add _ _),
    fun _ hbad => hrow.exec_invalid hbad⟩

/-- Settles O28: the SUB aliases are ALU rows whose result is the difference. -/
theorem subAliasesRunSubWithTheirOwnAdvance : Obligations.SubAliasesRunSubWithTheirOwnAdvance := by
  intro p hp oa ob
  have hrow : IsAluRow .sub p.1 p.2.1 p.2.2 := by
    fin_cases hp <;> exact ⟨by simp [aluTable, aluAliases], by decide, by decide⟩
  exact ⟨hrow.decode_eq oa ob, fun _ _ _ ha hb => hrow.exec_of_result ha hb (aluResult_sub _ _),
    fun _ hbad => hrow.exec_invalid hbad⟩

/-- Settles O29: the MUL aliases are ALU rows whose result is the product. -/
theorem mulAliasesRunMulWithTheirOwnAdvance : Obligations.MulAliasesRunMulWithTheirOwnAdvance := by
  intro p hp oa ob
  have hrow : IsAluRow .mul p.1 p.2.1 p.2.2 := by
    fin_cases hp <;> exact ⟨by simp [aluTable, aluAliases], by decide, by decide⟩
  exact ⟨hrow.decode_eq oa ob, fun _ _ _ ha hb => hrow.exec_of_result ha hb (aluResult_mul _ _),
    fun _ hbad => hrow.exec_invalid hbad⟩

/-- Settles O30: the CMP aliases are ALU rows of the comparison. -/
theorem cmpAliasesRunCmpWithTheirOwnAdvance : Obligations.CmpAliasesRunCmpWithTheirOwnAdvance := by
  intro p hp oa ob
  have hrow : IsAluRow .cmp p.1 p.2.1 p.2.2 := by
    fin_cases hp <;> exact ⟨by simp [aluTable, aluAliases], by decide, by decide⟩
  exact ⟨hrow.decode_eq oa ob, fun _ _ s ha hb => (hrow.exec_eq oa ob s).trans (aluStep_cmp hrow.advance ha hb),
    fun _ hbad => hrow.exec_invalid hbad⟩

end Sys2Proof.Machine
end

section
/-! SUPPORT. The ALU aliases with setpc = 1 (30_encoding.md R72, R74): a step is the ALU routine alone, after which the
machine stands at the same instruction, so a run of `n` steps is the routine iterated `n` times. -/

namespace Sys2Proof.Machine

/-! ## The step -/

/-- A step at an ALU-flagged byte with a supported identifier is the ALU step of that byte over the two bytes after it
(30_encoding.md R68). -/
theorem step_of_aluByte {s : State} {o : AluOp} (hrun : s.run = .running) (hcnt : opCnt (s.readMem s.pc) ≠ 3)
    (halu : opAlu (s.readMem s.pc) = true) (hid : opId (s.readMem s.pc) ∈ [(0 : BitVec 4), 1, 2, 7])
    (ho : aluOpOfId (opId (s.readMem s.pc)) = some o) :
    step s = aluStep o (s.readMem s.pc) (s.readMem (s.pc + 1)) (s.readMem (s.pc + 2)) s := by
  obtain ⟨r, hr, hop⟩ := exists_aluRow hcnt halu hid
  have hrow : IsAluRow o r.1 r.2 (opAdvance r.1) := ⟨hr, hop ▸ ho, rfl⟩
  rw [step_running hrun, State.fetch, ← hop, hrow.decode_eq, hrow.exec_eq]

/-! ## The routine keeps everything the next step depends on -/

@[simp] theorem aluRoutine_run (o : AluOp) (a b : Fin 8) (s : State) : (aluRoutine o a b s).run = s.run := by
  cases o <;> rfl

@[simp] theorem aluRoutine_pc (o : AluOp) (a b : Fin 8) (s : State) : (aluRoutine o a b s).pc = s.pc := by
  cases o <;> rfl

@[simp] theorem aluRoutine_out (o : AluOp) (a b : Fin 8) (s : State) : (aluRoutine o a b s).out = s.out := by
  cases o <;> rfl

/-- The routine writes at most its first register. -/
theorem aluRoutine_reg_ne {a r : Fin 8} (h : r ≠ a) (o : AluOp) (b : Fin 8) (s : State) :
    (aluRoutine o a b s).reg r = s.reg r := by
  cases o with
  | add | sub | mul => exact State.reg_setReg_ne s h.symm _
  | cmp => rfl

/-- The machine stands at an ALU-flagged byte of operation `o` that leaves pc to its routine, over R[a] and R[b]. -/
structure StandsAtRepeatingAlu (o : AluOp) (a b : Fin 8) (s : State) : Prop where
  running : s.run = .running
  cnt : opCnt (s.readMem s.pc) ≠ 3
  alu : opAlu (s.readMem s.pc) = true
  setpc : opSetpc (s.readMem s.pc) = true
  id : opId (s.readMem s.pc) ∈ [(0 : BitVec 4), 1, 2, 7]
  selects : aluOpOfId (opId (s.readMem s.pc)) = some o
  first : (s.readMem (s.pc + 1)).toNat = a.val
  second : (s.readMem (s.pc + 2)).toNat = b.val

namespace StandsAtRepeatingAlu

variable {o : AluOp} {a b : Fin 8} {s : State} (h : StandsAtRepeatingAlu o a b s)
include h

theorem step_eq : step s = .next (aluRoutine o a b s) := by
  rw [step_of_aluByte h.running h.cnt h.alu h.id h.selects, aluStep_valid o _ h.first h.second,
    State.autoAdvance_of_setpc h.setpc]

/-- Run state, pc and memory say where the machine stands. -/
theorem congr {t : State} (hrun : t.run = s.run) (hpc : t.pc = s.pc) (hmem : t.mem = s.mem) :
    StandsAtRepeatingAlu o a b t := by
  obtain ⟨h1, h2, h3, h4, h5, h6, h7, h8⟩ := h
  constructor <;> simpa only [hrun, hpc, State.readMem_congr hmem]

theorem after_aluRoutine : StandsAtRepeatingAlu o a b (aluRoutine o a b s) :=
  h.congr (aluRoutine_run o a b s) (aluRoutine_pc o a b s) (aluRoutine_mem o a b s)

theorem run_eq (n : Nat) : Host.Core.run core n s = .next ((aluRoutine o a b)^[n] s) := by
  induction n generalizing s with
  | zero => rfl
  | succ n ih => rw [run_succ h.step_eq, ih h.after_aluRoutine, Function.iterate_succ_apply]

end StandsAtRepeatingAlu

/-! ## The iterated routine -/

section
variable (o : AluOp) (a b : Fin 8) (s : State) (n : Nat)

/-- What the routine keeps, its iterates keep. -/
theorem iterate_aluRoutine_keeps {β : Type} (f : State → β) (h : ∀ t, f (aluRoutine o a b t) = f t) :
    f ((aluRoutine o a b)^[n] s) = f s := by
  induction n with
  | zero => rfl
  | succ n ih => rw [Function.iterate_succ_apply', h, ih]

theorem iterate_aluRoutine_reg_ne {r : Fin 8} (h : r ≠ a) : ((aluRoutine o a b)^[n] s).reg r = s.reg r :=
  iterate_aluRoutine_keeps o a b s n (fun t => t.reg r) (aluRoutine_reg_ne h o b)

/-- With two distinct registers each iterate applies the operation to the first register and the same second value. -/
theorem reg_iterate_aluRoutine_succ {f : Byte → Byte → Byte} (hf : ∀ va vb, aluResult o va vb = some (f va vb))
    (hab : a ≠ b) : ((aluRoutine o a b)^[n + 1] s).reg a = f (((aluRoutine o a b)^[n] s).reg a) (s.reg b) := by
  rw [Function.iterate_succ_apply', aluRoutine_of_result (hf _ _), State.reg_setReg_same,
    iterate_aluRoutine_reg_ne o a b s n hab.symm]

variable {a b} (hab : a ≠ b)
include hab

theorem reg_iterate_add : ((aluRoutine .add a b)^[n] s).reg a = s.reg a + BitVec.ofNat 8 n * s.reg b := by
  induction n with
  | zero => simp
  | succ n ih =>
    rw [reg_iterate_aluRoutine_succ .add a b s n (fun _ _ => rfl) hab, ih, BitVec.ofNat_add, add_mul, BitVec.one_mul,
      add_assoc]

theorem reg_iterate_sub : ((aluRoutine .sub a b)^[n] s).reg a = s.reg a - BitVec.ofNat 8 n * s.reg b := by
  induction n with
  | zero => simp
  | succ n ih =>
    rw [reg_iterate_aluRoutine_succ .sub a b s n (fun _ _ => rfl) hab, ih, BitVec.ofNat_add, add_mul, BitVec.one_mul,
      sub_add_eq_sub_sub]

theorem reg_iterate_mul : ((aluRoutine .mul a b)^[n] s).reg a = s.reg a * s.reg b ^ n := by
  induction n with
  | zero => simp
  | succ n ih =>
    rw [reg_iterate_aluRoutine_succ .mul a b s n (fun _ _ => rfl) hab, ih, pow_succ, mul_assoc]

end

/-- Settles O31: the run is the iterated routine, which adds, subtracts or multiplies once more with each step. -/
theorem repeatingAliasNeverEndsTheRun : Obligations.RepeatingAliasNeverEndsTheRun := by
  intro s a b hrun hcnt halu hsetpc hid ha hb n
  obtain ⟨o, ho⟩ := Option.ne_none_iff_exists'.mp fun hnone => (aluOpOfId_eq_none _).mp hnone hid
  have hs : StandsAtRepeatingAlu o a b s := ⟨hrun, hcnt, halu, hsetpc, hid, ho, ha, hb⟩
  refine ⟨_, hs.run_eq n, ?_, iterate_aluRoutine_keeps o a b s n State.pc (aluRoutine_pc o a b),
    iterate_aluRoutine_keeps o a b s n State.mem (aluRoutine_mem o a b),
    iterate_aluRoutine_keeps o a b s n State.out (aluRoutine_out o a b),
    fun r hr => iterate_aluRoutine_reg_ne o a b s n hr, fun hab h0 => ?_, fun hab h1 => ?_, fun hab h2 => ?_⟩
  · exact (iterate_aluRoutine_keeps o a b s n State.run (aluRoutine_run o a b)).trans hrun
  · obtain rfl : AluOp.add = o := by simpa [h0, aluOpOfId] using ho
    exact reg_iterate_add s n hab
  · obtain rfl : AluOp.sub = o := by simpa [h1, aluOpOfId] using ho
    exact reg_iterate_sub s n hab
  · obtain rfl : AluOp.mul = o := by simpa [h2, aluOpOfId] using ho
    exact reg_iterate_mul s n hab

end Sys2Proof.Machine
end

section
/-! SUPPORT. What every way to end keeps, derived once from `exec_ends` and its routines: the form of memory, FL, the
run state, the record and the output. The invariant (10_state.md R24, R27, R28) and the claims about FL, output, run
state and pc follow from it. -/

namespace Sys2Proof.Machine

/-! ## The routines -/

section
variable {s s' : State} (h : Routine s s')
include h

theorem Routine.wf_mem (hs : Memory.wf s.mem = true) : Memory.wf s'.mem = true := by
  cases h with
  | push f => exact State.pushWith_wf s f hs
  | call f v => exact State.pushWith_wf s f hs
  | halt | setReg | compare | emit | pop | ret | jump => exact hs

/-- FL is what it was or what a comparison writes. -/
theorem Routine.fl : s'.fl = s.fl ∨ s'.fl = flEqual ∨ s'.fl = flGreater ∨ s'.fl = flLess := by
  cases h with
  | compare va vb => exact .inr (compareFlags_cases va vb)
  | halt | setReg | emit | push | pop | call | ret | jump => exact .inl rfl

theorem Routine.fatal : s'.fatal = s.fatal := by cases h <;> rfl

theorem Routine.run : s'.run = s.run ∨ s'.run = .halted := by
  cases h with
  | halt => exact .inr rfl
  | setReg | compare | emit | push | pop | call | ret | jump => exact .inl rfl

theorem Routine.run_ne_fatalError (hs : s.run ≠ .fatalError) : s'.run ≠ .fatalError := by
  obtain hrun | hrun := h.run
  · rwa [hrun]
  · rw [hrun]
    nofun

theorem Routine.out : ∃ l : List Byte, s'.out = s.out ++ l ∧ l.length ≤ 1 := by
  cases h with
  | emit v => exact ⟨[v], rfl, le_rfl⟩
  | halt | setReg | compare | push | pop | call | ret | jump => exact ⟨[], (List.append_nil _).symm, Nat.zero_le 1⟩

end

/-! ## The instructions and the steps -/

/-- Every way an instruction that answers a next state can end. -/
theorem exec_next {i : Instr} {s t : State} (h : exec i s = .next t) :
    (∃ k, k ≠ .programLoadFailure ∧ t = s.raiseFatal k) ∨ ∃ s' op, Routine s s' ∧ t = s'.autoAdvance op := by
  obtain ⟨k, hk, he⟩ | ⟨s', op, hr, he⟩ := exec_ends i s
  · exact .inl ⟨k, hk, next_inj (h.symm.trans he)⟩
  · exact .inr ⟨s', op, hr, next_inj (h.symm.trans he)⟩

/-- A step does nothing, ends in the fatal entry, or is a routine and an advance of a RUNNING machine. -/
theorem step_cases {s t : State} (h : step s = .next t) :
    (s.run ≠ .running ∧ t = s) ∨ (s.run = .running ∧ ((∃ k, k ≠ .programLoadFailure ∧ t = s.raiseFatal k) ∨
      ∃ s' op, Routine s s' ∧ t = s'.autoAdvance op)) := by
  by_cases hrun : s.run = .running
  · exact .inr ⟨hrun, exec_next ((step_running hrun).symm.trans h)⟩
  · exact .inl ⟨hrun, next_inj (h.symm.trans (step_ended hrun))⟩

theorem exists_exec_next (i : Instr) (s : State) : ∃ t, exec i s = .next t := by
  obtain ⟨k, -, h⟩ | ⟨s', op, -, h⟩ := exec_ends i s
  · exact ⟨_, h⟩
  · exact ⟨_, h⟩

theorem exists_step_next (s : State) : ∃ t, step s = .next t := by
  by_cases hrun : s.run = .running
  · rw [step_running hrun]
    exact exists_exec_next s.fetch s
  · exact ⟨s, step_ended hrun⟩

/-- Settles O13: an instruction ends in the fatal entry or in a routine, and both are next states. -/
theorem everyStepAnswersANextState : Obligations.EveryStepAnswersANextState :=
  ⟨exists_exec_next, exists_step_next⟩

/-! ## The invariant -/

/-- Settles O15, clause by clause. -/
theorem invariantHoldsAtReset : Obligations.InvariantHoldsAtReset where
  memory := reset_memory_wf
  flags := .inl rfl
  record := by decide
  recordTrue := trivial

theorem State.Inv.raiseFatal {s : State} (h : s.Inv) {k : FatalKind} (hk : k ≠ .programLoadFailure) :
    (s.raiseFatal k).Inv where
  memory := h.memory
  flags := h.flags
  record := by simp
  recordTrue := ⟨hk, rfl⟩

/-- A RUNNING machine has no record, so a routine after which it is RUNNING or HALTED has none to keep true. -/
theorem State.Inv.routine {s s' : State} (h : s.Inv) (hrun : s.run = .running) (hr : Routine s s') (op : Byte) :
    (s'.autoAdvance op).Inv := by
  have hnone : s.fatal = none := by simpa [hrun] using h.record
  have hfatal : s'.fatal = none := hr.fatal.trans hnone
  have hrun' : s'.run ≠ .fatalError := hr.run_ne_fatalError (by simp [hrun])
  refine ⟨by simpa using hr.wf_mem h.memory, ?_, by simp [hfatal, hrun'], by simp [State.RecordTrue, hfatal]⟩
  rw [State.FlagsLegal, State.autoAdvance_fl]
  obtain h' | h' := hr.fl
  · rw [h']
    exact h.flags
  · exact .inr h'

/-- Settles O16, by the ways a step can end. -/
theorem everyStepKeepsTheInvariant : Obligations.EveryStepKeepsTheInvariant := by
  intro s t hs h
  obtain ⟨-, rfl⟩ | ⟨hrun, ⟨k, hk, rfl⟩ | ⟨s', op, hr, rfl⟩⟩ := step_cases h
  · exact hs
  · exact hs.raiseFatal hk
  · exact hs.routine hrun hr op

/-- Settles O17: a routine ends in FATAL_ERROR only from FATAL_ERROR, so the instruction ended in the entry. -/
theorem fatalErrorIsPrecise : Obligations.FatalErrorIsPrecise := by
  intro i s t hs h ht
  obtain ⟨k, hk, rfl⟩ | ⟨s', op, hr, rfl⟩ := exec_next h
  · exact ⟨k, hk, rfl⟩
  · rw [State.autoAdvance_run] at ht
    exact absurd ht (hr.run_ne_fatalError hs)

/-! ## The run state -/

/-- An instruction ends in FATAL_ERROR, halts as HALT, or keeps the run state. -/
theorem exec_run {i : Instr} {s t : State} (h : exec i s = .next t) :
    t.run = .fatalError ∨ (i = .halt ∧ t.run = .halted) ∨ (i ≠ .halt ∧ t.run = s.run) := by
  cases exec_endsIn h with
  | fatal k => exact .inl rfl
  | halt hi => exact .inr (.inl ⟨hi, by simp⟩)
  | load _ _ _ hi | print _ _ hi | push _ _ hi | pop _ _ hi | call _ _ hi | ret hi | jmp _ _ hi =>
    exact .inr (.inr ⟨by simp [hi], by simp⟩)
  | jeq _ _ hi | jne _ _ hi => exact .inr (.inr ⟨by simp [hi], by simp [branchIf_eq_setPc]⟩)
  | alu o _ _ _ _ hi => exact .inr (.inr ⟨fun hhalt => by simp [hhalt, Instr.aluOp] at hi, by simp⟩)

/-- Settles O50: HALT never ends in FATAL_ERROR, and no other way to end is HALTED. -/
theorem onlyHaltReachesHalted : Obligations.OnlyHaltReachesHalted := by
  intro i s t hs h
  constructor
  · intro ht
    obtain h' | ⟨hi, -⟩ | ⟨-, h'⟩ := exec_run h
    · exact absurd (ht.symm.trans h') nofun
    · exact hi
    · exact absurd (ht.symm.trans (h'.trans hs)) nofun
  · rintro rfl
    cases h
    exact State.autoAdvance_run _ _

/-- Settles O22: a valid instruction is a routine, which keeps the record and reaches no FATAL_ERROR. -/
theorem validInstructionsRaiseNothing : Obligations.ValidInstructionsRaiseNothing := by
  intro i s hv hf
  obtain ⟨s', hr, h, -⟩ := exec_valid s hv hf
  refine ⟨_, h, by rw [State.autoAdvance_fatal, hr.fatal], fun hi => ?_⟩
  obtain h' | ⟨hhalt, -⟩ | ⟨-, h'⟩ := exec_run h
  · have hs : s.run = .fatalError := by
      by_contra hs
      exact hr.run_ne_fatalError hs ((State.autoAdvance_run _ _).symm.trans h')
    exact h'.trans hs.symm
  · exact absurd hhalt hi
  · exact h'

/-! ## The pc -/

/-- Settles O48: the routine leaves pc where the advance needs it, unless its opcode has setpc off the ALU path. -/
theorem pcAdvancesByOnePlusCountUnlessSetpc : Obligations.PcAdvancesByOnePlusCountUnlessSetpc := by
  intro i s hv hf
  obtain ⟨s', -, h, hpc⟩ := exec_valid s hv hf
  refine ⟨_, h, fun hset => ?_, fun hset halu => ?_⟩
  · have hpc : s'.pc = s.pc := hpc.resolve_right (by simp [hset])
    rw [State.autoAdvance_pc, if_neg (by simp [hset]), State.nextPc, hpc, opLength]
  · have hpc : s'.pc = s.pc := hpc.resolve_right (by simp [halu])
    rw [State.autoAdvance_of_setpc hset, hpc]

/-! ## The registers -/

theorem aluRoutine_reg_changed {o : AluOp} {a b r : Fin 8} {s : State} (h : (aluRoutine o a b s).reg r ≠ s.reg r) :
    r = a ∧ o ≠ .cmp := by
  refine ⟨by_contra fun hr => h (aluRoutine_reg_ne hr o b s), ?_⟩
  rintro rfl
  exact h rfl

theorem State.pushWith_reg_changed {s : State} {f : State → Byte} {r : Fin 8} (h : (s.pushWith f).reg r ≠ s.reg r) :
    r = 7 := by
  by_contra hr
  exact h (by rw [State.pushWith_reg_eq, if_neg hr])

/-- Settles O49, by the way the instruction ended. -/
theorem registersChangeOnlyAsTheInstructionNames : Obligations.RegistersChangeOnlyAsTheInstructionNames := by
  intro i s t r h hne
  cases exec_endsIn h with
  | fatal | halt | print | jmp => exact absurd (State.reg_congr (by simp) r) hne
  | jeq | jne => exact absurd (State.reg_congr (by simp [branchIf_eq_setPc]) r) hne
  | load oa imm a hi ha =>
    have hr : r = a := by
      by_contra hr
      exact hne (by rw [State.reg_autoAdvance, State.reg_setReg_ne s (Ne.symm hr)])
    exact .inr ⟨oa, hr ▸ ha, by simp [hi, Instr.operandBytes], .inr (.inl ⟨imm, hi⟩)⟩
  | push oa a hi ha =>
    rw [State.reg_autoAdvance] at hne
    exact .inl ⟨State.pushWith_reg_changed hne, .inr ⟨oa, .inl hi⟩⟩
  | call oa a hi ha =>
    rw [State.reg_autoAdvance, State.reg_setPc] at hne
    exact .inl ⟨State.pushWith_reg_changed hne, .inr ⟨oa, .inr (.inr hi)⟩⟩
  | ret hi =>
    have hr : r = 7 := by
      by_contra hr
      exact hne (by rw [State.reg_autoAdvance, State.incSp_reg, if_neg hr, State.reg_setPc])
    exact .inl ⟨hr, .inl hi⟩
  | pop oa a hi ha =>
    by_cases hr : r = 7
    · exact .inl ⟨hr, .inr ⟨oa, .inr (.inl hi)⟩⟩
    · have hra : r = a := by
        by_contra hra
        exact hne (by rw [State.reg_autoAdvance, State.reg_pop, if_neg hr, if_neg hra])
      exact .inr ⟨oa, hra ▸ ha, by simp [hi, Instr.operandBytes], .inl hi⟩
  | alu o oa ob a b hi hoperands ha hb =>
    obtain ⟨rfl, ho⟩ := aluRoutine_reg_changed (by simpa using hne)
    refine .inr ⟨oa, ha, by simp [hoperands], .inr (.inr ?_)⟩
    cases o with
    | add => exact .inl hi
    | sub => exact .inr (.inl hi)
    | mul => exact .inr (.inr hi)
    | cmp => exact absurd rfl ho

end Sys2Proof.Machine
end

section
/-! SUPPORT. Runs (00_scope.md R13, 70_reset_and_hazards.md R217): composition, the run port, and the induction that
carries a fact of one step to any number of steps. -/

namespace Sys2Proof.Machine

/-! ## Composition -/

theorem stepPort_of_step {s t : State} (h : step s = .next t) : stepPort s = t := by rw [stepPort, h]

theorem run_succ_next {s t : State} {n : Nat} (h : Host.Core.run core (n + 1) s = .next t) :
    ∃ u, step s = .next u ∧ Host.Core.run core n u = .next t := by
  obtain ⟨u, hu⟩ := exists_step_next s
  exact ⟨u, hu, (run_succ hu n).symm.trans h⟩

/-- A fact that every step keeps holds after any number of steps. -/
theorem run_keeps {p : State → Prop} (hstep : ∀ s t, p s → step s = .next t → p t) {n : Nat} {s t : State} (hs : p s)
    (h : Host.Core.run core n s = .next t) : p t := by
  induction n generalizing s with
  | zero => exact next_inj h ▸ hs
  | succ n ih =>
    obtain ⟨u, hu, h⟩ := run_succ_next h
    exact ih (hstep s u hs hu) h

theorem run_add {m : Nat} (n : Nat) {s t : State} (h : Host.Core.run core m s = .next t) :
    Host.Core.run core (m + n) s = Host.Core.run core n t := by
  induction m generalizing s with
  | zero => rw [Nat.zero_add, next_inj h]
  | succ m ih =>
    obtain ⟨u, hu, h⟩ := run_succ_next h
    rw [Nat.add_right_comm, run_succ hu, ih h]

/-- The run port reports the state that the same number of single steps reach. -/
theorem runPort_eq {n : Nat} {s t : State} (h : Host.Core.run core n s = .next t) :
    runPort n s = if t.run = .running then .notFinished t else .ended t := by
  induction n generalizing s with
  | zero =>
    obtain rfl : s = t := next_inj h
    by_cases hrun : s.run = .running
    · rw [if_pos hrun, runPort, hrun]
    · rw [if_neg hrun, runPort_ended hrun]
  | succ n ih =>
    by_cases hrun : s.run = .running
    · obtain ⟨u, hu, h⟩ := run_succ_next h
      rw [runPort, hrun, stepPort_of_step hu, ← ih h]
    · obtain rfl : s = t := next_inj ((run_ended hrun (n + 1)).symm.trans h)
      rw [if_neg hrun, runPort_ended hrun]

/-- Settles O14, by induction on the number of steps. -/
theorem runningIsSteppingRepeatedly : Obligations.RunningIsSteppingRepeatedly :=
  ⟨fun _ n _ _ h => run_add n h, fun _ _ _ h => runPort_eq h⟩

/-! ## FL after a comparison -/

/-- Exactly one of the three flags is set, as a comparison leaves them (10_state.md R26). -/
def State.OneFlag (s : State) : Prop := s.fl = 0x01 ∨ s.fl = 0x02 ∨ s.fl = 0x04

theorem step_keeps_oneFlag (s t : State) (hs : s.OneFlag) (h : step s = .next t) : t.OneFlag := by
  obtain ⟨-, rfl⟩ | ⟨-, ⟨k, -, rfl⟩ | ⟨s', op, hr, rfl⟩⟩ := step_cases h
  · exact hs
  · exact hs
  · rw [State.OneFlag, State.autoAdvance_fl]
    obtain hfl | hfl := hr.fl
    · exact hfl ▸ hs
    · exact hfl

theorem exec_cmp_oneFlag {i : Instr} (hi : i.aluOp = some .cmp) (hv : i.registersValid = true) (s : State) :
    ∃ t, exec i s = .next t ∧ t.OneFlag := by
  obtain ⟨oa, ob, hregs, hexec⟩ := exec_of_aluOp hi
  obtain ⟨a, ha⟩ := registersValid_index hv (r := oa) (by simp [hregs])
  obtain ⟨b, hb⟩ := registersValid_index hv (r := ob) (by simp [hregs])
  refine ⟨_, (hexec s).trans (aluStep_valid _ _ ha hb s), ?_⟩
  rw [State.OneFlag, State.autoAdvance_fl]
  exact compareFlags_cases _ _

/-- Settles O45: a comparison sets one flag, and a step keeps FL or makes a comparison. -/
theorem flagsStayNonzeroAfterAComparison : Obligations.FlagsStayNonzeroAfterAComparison :=
  ⟨fun _ s hi hv => exec_cmp_oneFlag hi hv s, fun _ _ _ hs h => run_keeps step_keeps_oneFlag hs h⟩

/-! ## The output channel -/

/-- Only PRINT writes the output channel. -/
theorem exec_out_changed {i : Instr} {s t : State} (h : exec i s = .next t) (hne : t.out ≠ s.out) :
    ∃ oa : Byte, i = .print oa := by
  cases exec_endsIn h with
  | print oa a hi => exact ⟨oa, hi⟩
  | fatal | halt | load | push | pop | call | ret | jmp | alu => exact absurd (by simp) hne
  | jeq | jne => exact absurd (by simp [branchIf_eq_setPc]) hne

theorem step_out {s t : State} (h : step s = .next t) : ∃ l : List Byte, t.out = s.out ++ l ∧ l.length ≤ 1 := by
  obtain ⟨-, rfl⟩ | ⟨-, ⟨k, -, rfl⟩ | ⟨s', op, hr, rfl⟩⟩ := step_cases h
  · exact ⟨[], (List.append_nil _).symm, Nat.zero_le 1⟩
  · exact ⟨[], (List.append_nil _).symm, Nat.zero_le 1⟩
  · rw [State.autoAdvance_out]
    exact hr.out

theorem run_out {n : Nat} {s t : State} (h : Host.Core.run core n s = .next t) :
    ∃ l : List Byte, t.out = s.out ++ l ∧ l.length ≤ n := by
  induction n generalizing s with
  | zero => exact ⟨[], by rw [next_inj h, List.append_nil], le_rfl⟩
  | succ n ih =>
    obtain ⟨u, hu, h⟩ := run_succ_next h
    obtain ⟨l, hl, hlen⟩ := step_out hu
    obtain ⟨l', hl', hlen'⟩ := ih h
    exact ⟨l ++ l', by rw [hl', hl, List.append_assoc], by rw [List.length_append]; omega⟩

/-- Settles O47: one step appends at most one byte, and the rest is an induction on the number of steps. -/
theorem outputGrowsOnlyByPrint : Obligations.OutputGrowsOnlyByPrint :=
  ⟨fun _ _ _ h hne => exec_out_changed h hne, fun _ _ _ h => run_out h⟩

end Sys2Proof.Machine
end

section
/-! SUPPORT. The order of the errors of a step (60_exceptions.md R181 to R183, R186), class by class of the opcode
byte. -/

namespace Sys2Proof.Machine

/-- A step raises the error of code `code`, or none. -/
def StepRaises (s : State) (code : Option Nat) : Prop :=
  ∃ t : State, step s = .next t ∧ t.fatal.map (fun r => r.code) = code ∧ (t.run = .fatalError ↔ code ≠ none)

theorem StepRaises.of_raiseFatal {s : State} {k : FatalKind} (h : step s = .next (s.raiseFatal k)) :
    StepRaises s (some k.code) :=
  ⟨_, h, rfl, by simp⟩

/-- An instruction that is no fault class raises the register check's error, or none. -/
theorem StepRaises.of_registers {s : State} (hrun : s.run = .running) (hnone : s.fatal = none)
    (hf : s.fetch.faultKind = none) {regs : List Byte} (hregs : s.fetch.registerOperands = regs) :
    StepRaises s (if ∃ r ∈ regs, 8 ≤ r.toNat then some 3 else none) := by
  subst hregs
  split_ifs with hbad
  · exact .of_raiseFatal ((step_running hrun).trans (exec_invalid hbad s))
  · have hv : s.fetch.registersValid = true := by simpa [Instr.registersValid] using hbad
    obtain ⟨s', hr, h, -⟩ := exec_valid s hv hf
    have hfatal : (s'.autoAdvance s.fetch.opcode).fatal = none := by rw [State.autoAdvance_fatal, hr.fatal, hnone]
    have hrun' : s'.run ≠ .fatalError := hr.run_ne_fatalError (by simp [hrun])
    exact ⟨_, (step_running hrun).trans h, by rw [hfatal]; rfl, by simp [hrun']⟩

/-! ## The classes -/

section
variable {s : State} (hrun : s.run = .running)
include hrun

theorem step_reserved (hcnt : opCnt (s.readMem s.pc) = 3) : step s = .next (s.raiseFatal .unrecognizedOpcode) := by
  rw [step_running hrun, State.fetch, decode_reserved _ _ ((isReservedCount_iff _).mpr hcnt)]
  rfl

theorem step_unrecognized (hop : isUnrecognized (s.readMem s.pc) = true) :
    step s = .next (s.raiseFatal .unrecognizedOpcode) := by
  rw [step_running hrun, State.fetch, decode_unrecognized _ _ hop]
  rfl

variable (hnone : s.fatal = none)
include hnone

theorem StepRaises.of_aluByte (hcnt : opCnt (s.readMem s.pc) ≠ 3) (halu : opAlu (s.readMem s.pc) = true)
    (hid : opId (s.readMem s.pc) ∈ [(0 : BitVec 4), 1, 2, 7]) : StepRaises s
      (if 8 ≤ (s.readMem (s.pc + 1)).toNat ∨ 8 ≤ (s.readMem (s.pc + 2)).toNat then some 3 else none) := by
  obtain ⟨r, hr, hop⟩ := exists_aluRow hcnt halu hid
  have hfetch : s.fetch = r.2 (s.readMem (s.pc + 1)) (s.readMem (s.pc + 2)) := by
    rw [State.fetch, ← hop, decode_aluRow r hr]
  obtain ⟨-, -, -, hregs, -, hfault⟩ := aluRow_instr r hr (s.readMem (s.pc + 1)) (s.readMem (s.pc + 2))
  rw [← hfetch] at hregs hfault
  simpa using StepRaises.of_registers hrun hnone hfault hregs

theorem StepRaises.of_dispatchByte (hop : s.readMem s.pc ∈ dispatchOpcodes) : StepRaises s
      (if s.readMem s.pc = 0x01 ∨ s.readMem s.pc = 0x11 then none
       else if 8 ≤ (s.readMem (s.pc + 1)).toNat then some 3 else none) := by
  obtain ⟨r, hr, hop⟩ := exists_dispatchRow hop
  have hfetch : s.fetch = r.2 (s.readMem (s.pc + 1)) (s.readMem (s.pc + 2)) := by
    rw [State.fetch, ← hop, decode_dispatchRow r hr]
  have hregs := dispatchRow_registerOperands r hr (s.readMem (s.pc + 1)) (s.readMem (s.pc + 2))
  obtain ⟨-, -, -, -, hfault⟩ := dispatchRow_instr r hr (s.readMem (s.pc + 1)) (s.readMem (s.pc + 2))
  rw [← hfetch] at hregs hfault
  rw [hop] at hregs
  by_cases hhaltRet : s.readMem s.pc = 0x01 ∨ s.readMem s.pc = 0x11
  · rw [if_pos hhaltRet] at hregs ⊢
    simpa using StepRaises.of_registers hrun hnone hfault hregs
  · rw [if_neg hhaltRet] at hregs ⊢
    simpa using StepRaises.of_registers hrun hnone hfault hregs

end

/-- Settles O18: the branches of the order are the classes of opcode bytes, and within a class the register check. -/
theorem stepReportsTheFirstErrorThatApplies : Obligations.StepReportsTheFirstErrorThatApplies := by
  intro s hrun hnone op oa ob code
  change StepRaises s code
  by_cases hcnt : opCnt op = 3
  · rw [show code = some 1 from if_pos hcnt]
    exact .of_raiseFatal (step_reserved hrun hcnt)
  rw [show code = _ from if_neg hcnt]
  by_cases halu : opAlu op = true
  · rw [if_pos halu]
    by_cases hid : opId op ∈ [(0 : BitVec 4), 1, 2, 7]
    · rw [if_neg (not_not.mpr hid)]
      exact .of_aluByte hrun hnone hcnt halu hid
    · rw [if_pos hid]
      exact .of_raiseFatal (step_unsupportedAlu hrun ((isUnsupportedAlu_iff op).mpr ⟨halu, hcnt, hid⟩))
  · rw [if_neg halu]
    by_cases hop : op ∈ [(0x01 : Byte), 0x82, 0x47, 0x45, 0x46, 0x50, 0x11, 0x54, 0x55, 0x56]
    · rw [if_neg (not_not.mpr hop)]
      exact .of_dispatchByte hrun hnone hop
    · rw [if_pos hop]
      exact .of_raiseFatal (step_unrecognized hrun
        ((isUnrecognized_iff op).mpr ⟨hcnt, eq_false_of_ne_true halu, hop⟩))

end Sys2Proof.Machine
end

section
/-! SUPPORT. The canonical form is a normal form (log 19): the first entry of a canonical memory is the lowest address
that does not read as the reset byte, so two canonical memories that read alike agree entry by entry. -/

namespace Sys2Proof.Machine

/-- Below the first entry of a canonical memory every address reads as the reset byte. -/
theorem Memory.readAt_of_wfAbove {k a : Nat} {m : Memory} (hm : Memory.wfAbove (some k) m = true) (ha : a ≤ k) :
    Memory.readAt m a = Config.memReset := by
  induction m generalizing k with
  | nil => rfl
  | cons c m ih =>
    obtain ⟨k', v⟩ := c
    obtain ⟨hlt, -, -, hm⟩ := (Memory.wfAbove_cons _ _ _ _).mp hm
    have hak : a < k' := lt_of_le_of_lt ha (hlt k rfl)
    rw [Memory.readAt, if_neg hak.ne, ih hm hak.le]

/-- The two memories read alike at every address. -/
def Memory.ReadAlike (m m' : Memory) : Prop := ∀ a < Config.memSize, Memory.readAt m a = Memory.readAt m' a

/-- The first entry of a canonical memory shows in every canonical memory that reads alike, no later. -/
theorem Memory.ReadAlike.exists_head_le {lo lo' : Option Nat} {k : Nat} {v : Byte} {m m' : Memory}
    (h : Memory.ReadAlike ((k, v) :: m) m') (hm : Memory.wfAbove lo ((k, v) :: m) = true)
    (hm' : Memory.wfAbove lo' m' = true) : ∃ k' v' n', m' = (k', v') :: n' ∧ k' ≤ k := by
  obtain ⟨-, hk, hv, -⟩ := (Memory.wfAbove_cons _ _ _ _).mp hm
  have hread : Memory.readAt m' k = v := by rw [← h k hk, Memory.readAt, if_pos rfl]
  cases m' with
  | nil => exact absurd hread.symm hv
  | cons c n' =>
    obtain ⟨k', v'⟩ := c
    refine ⟨k', v', n', rfl, ?_⟩
    by_contra! hlt
    obtain ⟨-, -, -, hn'⟩ := (Memory.wfAbove_cons _ _ _ _).mp hm'
    rw [Memory.readAt, if_neg hlt.ne, Memory.readAt_of_wfAbove hn' hlt.le] at hread
    exact hv hread.symm

/-- The rests of two canonical memories with the same first address read alike as well. -/
theorem Memory.ReadAlike.tail {k : Nat} {v v' : Byte} {m m' : Memory}
    (h : Memory.ReadAlike ((k, v) :: m) ((k, v') :: m')) (hm : Memory.wfAbove (some k) m = true)
    (hm' : Memory.wfAbove (some k) m' = true) : Memory.ReadAlike m m' := by
  intro a ha
  by_cases hak : a = k
  · rw [Memory.readAt_of_wfAbove hm hak.le, Memory.readAt_of_wfAbove hm' hak.le]
  · simpa [Memory.readAt, hak] using h a ha

theorem Memory.ReadAlike.eq_of_wfAbove {lo lo' : Option Nat} {m m' : Memory} (h : Memory.ReadAlike m m')
    (hm : Memory.wfAbove lo m = true) (hm' : Memory.wfAbove lo' m' = true) : m = m' := by
  have hsymm : Memory.ReadAlike m' m := fun a ha => (h a ha).symm
  induction m generalizing lo lo' m' with
  | nil =>
    cases m' with
    | nil => rfl
    | cons c n' =>
      obtain ⟨_, _, _, hnil, -⟩ := hsymm.exists_head_le hm' hm
      cases hnil
  | cons c m ih =>
    obtain ⟨k, v⟩ := c
    obtain ⟨k', v', n', rfl, hle⟩ := h.exists_head_le hm hm'
    obtain ⟨_, _, _, hcons, hge⟩ := hsymm.exists_head_le hm' hm
    cases hcons
    obtain rfl : k = k' := le_antisymm hge hle
    obtain ⟨-, hk, -, hrest⟩ := (Memory.wfAbove_cons _ _ _ _).mp hm
    obtain ⟨-, -, -, hrest'⟩ := (Memory.wfAbove_cons _ _ _ _).mp hm'
    obtain rfl : v = v' := by simpa [Memory.readAt] using h k hk
    rw [ih (h.tail hrest hrest') hrest hrest' (hsymm.tail hrest' hrest)]

/-- Settles O3: the 256 byte addresses are all there are. -/
theorem canonicalMemoriesThatReadAlikeAreEqual : Obligations.CanonicalMemoriesThatReadAlikeAreEqual := by
  intro m m' hm hm' h
  have halike : Memory.ReadAlike m m' := fun a ha => by
    simpa [Nat.mod_eq_of_lt (show a < 256 from ha)] using h (BitVec.ofNat 8 a)
  exact halike.eq_of_wfAbove hm hm'

end Sys2Proof.Machine
end

section
/-! SUPPORT. The host's interface (60_exceptions.md R195 to R197, 70_reset_and_hazards.md R210 to R213, 30_encoding.md
R77): the restart, the load, the program image and the exit status. -/

namespace Sys2Proof.Machine

/-! ## The restart and the host's moves -/

theorem reset_reg : ∀ i : Fin 8, State.reset.reg i = if i.val = 7 then 0xF4 else 0 := by decide

/-- Settles O1, item by item of the reset table. -/
theorem restartGivesTheResetState : Obligations.RestartGivesTheResetState :=
  fun _ => ⟨reset_reg, rfl, rfl, rfl, rfl, rfl, fun _ => rfl, rfl⟩

theorem Session.apply_run (n : Nat) (x : Session) :
    ∃ t, Session.apply (.run n) x = some { block := t, started := true } := by
  rw [Session.apply]
  cases runPort n x.block with
  | ended t | notFinished t => exact ⟨t, rfl⟩

theorem Session.apply_step_or_run_started {n : Nat} {x y : Session}
    (h : Session.apply .step x = some y ∨ Session.apply (.run n) x = some y) : y.started = true := by
  obtain h | h := h
  · cases h
    rfl
  · obtain ⟨t, ht⟩ := Session.apply_run n x
    cases ht.symm.trans h
    rfl

/-- Settles O55, move by move. -/
theorem hostLoadsOnlyBeforeTheFirstStep : Obligations.HostLoadsOnlyBeforeTheFirstStep :=
  fun _ _ _ _ => ⟨fun h => if_pos h, fun h => if_neg (by simp [h]), rfl, fun _ => Session.apply_step_or_run_started⟩

/-! ## The load -/

/-- Loading writes memory alone. -/
theorem loadFrom_setMem (addr : Byte) (vs : List Byte) (s : State) (m : Memory) :
    (loadFrom addr vs s).setMem m = s.setMem m := by
  induction vs generalizing addr s with
  | nil => rfl
  | cons v vs ih => exact ih (addr + 1) (hostLoad addr v s)

/-- Each address holds the value that its distance from the first address selects, or what it held before. -/
theorem readMem_loadFrom (addr : Byte) (vs : List Byte) (hlen : vs.length ≤ 256) (s : State) (a : Byte) :
    (loadFrom addr vs s).readMem a = vs.getD (a - addr).toNat (s.readMem a) := by
  induction vs generalizing addr s with
  | nil => rfl
  | cons v vs ih =>
    rw [List.length_cons] at hlen
    rw [loadFrom, ih (addr + 1) (by omega), hostLoad, State.readMem_writeMem]
    by_cases ha : a = addr
    · have hlast : (a - (addr + 1)).toNat = 255 := by bv_omega
      rw [if_pos ha, hlast, List.getD_eq_default _ _ (by omega), ha, BitVec.sub_self]
      rfl
    · have hnext : (a - addr).toNat = (a - (addr + 1)).toNat + 1 := by bv_omega
      rw [if_neg ha, hnext, List.getD_cons_succ]

/-- Settles O52: memory by the distance from address 0, the rest because loading writes memory alone. -/
theorem loadedImageFillsMemoryFromAddressZero : Obligations.LoadedImageFillsMemoryFromAddressZero := by
  intro vs hlen t
  refine ⟨fun a => ?_, loadFrom_setMem 0 vs .reset []⟩
  have hread := readMem_loadFrom 0 vs hlen .reset a
  rwa [sub_zero] at hread

/-! ## The program image -/

/-- One malformed line spoils the image. -/
theorem imageValues_of_malformed {lines : List (List Char)} (h : ∃ l ∈ lines, parseImageLine l = .malformed) :
    imageValues lines = none := by
  induction lines with
  | nil => simp at h
  | cons line lines ih =>
    unfold imageValues
    cases hline : parseImageLine line with
    | malformed => rfl
    | skipped => exact ih (by simpa [hline] using h)
    | value v =>
      have hrest : imageValues lines = none := ih (by simpa [hline] using h)
      rw [hrest]
      rfl

/-- Without a malformed line the image holds the values of its lines, in order. -/
theorem imageValues_of_wellFormed {lines : List (List Char)} (h : ∀ l ∈ lines, parseImageLine l ≠ .malformed) :
    imageValues lines = some (lines.filterMap fun l => (parseImageLine l).byte) := by
  induction lines with
  | nil => rfl
  | cons line lines ih =>
    have hrest := ih fun l hl => h l (List.mem_cons_of_mem _ hl)
    unfold imageValues
    cases hline : parseImageLine line with
    | malformed => exact absurd hline (h line List.mem_cons_self)
    | skipped => simp [hline, hrest, ImageLine.byte]
    | value v => simp [hline, hrest, ImageLine.byte]

/-- Settles O53: a malformed line or too many values fail the parse, and any other image is loaded. -/
theorem bootFailsExactlyOnAMalformedOrOverlongImage : Obligations.BootFailsExactlyOnAMalformedOrOverlongImage := by
  intro lines values
  by_cases hbad : ∃ l ∈ lines, parseImageLine l = .malformed
  · rw [if_pos (.inl hbad), boot, parseImage, imageValues_of_malformed hbad]
  · have hvalues : imageValues lines = some values :=
      imageValues_of_wellFormed fun l hl hmal => hbad ⟨l, hl, hmal⟩
    by_cases hlong : 256 < values.length
    · rw [if_pos (.inr hlong), boot, parseImage, hvalues]
      simp only [if_neg (show ¬ values.length ≤ Config.memSize from not_le.mpr hlong)]
    · rw [if_neg (not_or.mpr ⟨hbad, hlong⟩), boot, parseImage, hvalues]
      simp only [if_pos (show values.length ≤ Config.memSize from not_lt.mp hlong)]

/-! ## A line of binary digits -/

/-- The character of a binary digit. -/
def bitChar (b : Bool) : Char := if b then '1' else '0'

theorem bitChar_ne_hash (b : Bool) : bitChar b ≠ '#' := by cases b <;> decide

theorem isBlank_bitChar (b : Bool) : isBlank (bitChar b) = false := by cases b <;> decide

theorem digitValue_bitChar (b : Bool) : digitValue (bitChar b) = some b.toNat := by cases b <;> decide

theorem parseDigits_bitChar (acc : Nat) (b : Bool) (cs : List Char) :
    parseDigits 2 acc (bitChar b :: cs) = parseDigits 2 (acc * 2 + b.toNat) cs := by
  rw [parseDigits, digitValue_bitChar]
  exact if_pos (Bool.toNat_lt b)

/-- The digits of the low `n` bits of a number, most significant first. -/
def bitChars (n x : Nat) : List Char := (List.range n).reverse.map fun k => bitChar (x.testBit k)

theorem bitChars_succ (n x : Nat) : bitChars (n + 1) x = bitChar (x.testBit n) :: bitChars n x := by
  simp [bitChars, List.range_succ]

/-- The low `n` bits of a number spell its remainder by `2 ^ n`. -/
theorem parseDigits_bitChars (acc n x : Nat) : parseDigits 2 acc (bitChars n x) = some (acc * 2 ^ n + x % 2 ^ n) := by
  induction n generalizing acc with
  | zero => simp [bitChars, parseDigits, Nat.mod_one]
  | succ n ih =>
    rw [bitChars_succ, parseDigits_bitChar, ih, Nat.mod_pow_succ, Nat.toNat_testBit]
    congr 1
    ring

theorem dropWhile_isBlank_eq_self {t : List Char} (h : ∀ c ∈ t, isBlank c = false) : t.dropWhile isBlank = t := by
  cases t with
  | nil => rfl
  | cons c cs => exact List.dropWhile_cons_of_neg (by simp [h c])

/-- Trimming takes off the blank after a word without blanks. -/
theorem trimBlanks_append_blank {c : Char} {cs : List Char} (h : ∀ d ∈ c :: cs, isBlank d = false) :
    trimBlanks (c :: cs ++ [' ']) = c :: cs := by
  have hfront : (c :: cs ++ [' ']).dropWhile isBlank = c :: cs ++ [' '] :=
    List.dropWhile_cons_of_neg (by simp [h c])
  have hback : (c :: cs ++ [' ']).reverse.dropWhile isBlank = (c :: cs).reverse := by
    rw [List.reverse_append, List.reverse_singleton, List.singleton_append, List.dropWhile_cons_of_pos (by decide)]
    exact dropWhile_isBlank_eq_self fun d hd => h d (List.mem_reverse.mp hd)
  rw [trimBlanks, hfront, hback, List.reverse_reverse]

/-- A line is read as the number its digits spell before the comment. -/
theorem parseImageLine_of_digits {line : List Char} {c : Char} {cs : List Char} {n : Nat}
    (htext : line.takeWhile (· ≠ '#') = c :: cs ++ [' ']) (hblank : ∀ d ∈ c :: cs, isBlank d = false)
    (hdigits : parseDigits 2 0 (c :: cs) = some n) (hn : n ≤ 255) :
    parseImageLine line = .value (BitVec.ofNat 8 n) := by
  unfold parseImageLine
  rw [htext, trimBlanks_append_blank hblank]
  simp only [hdigits, if_pos hn]

theorem forall_mem_bitChars {p : Char → Prop} (hp : ∀ b, p (bitChar b)) (n x : Nat) : ∀ c ∈ bitChars n x, p c := by
  simp [bitChars, hp]

/-- Settles O54: the comment is cut off, the blank is trimmed and the eight digits spell the byte. -/
theorem eightBinaryDigitsSpellTheirByte : Obligations.EightBinaryDigitsSpellTheirByte := by
  intro v comment
  have htext : (bitChars 8 v.toNat ++ ' ' :: '#' :: comment).takeWhile (· ≠ '#') = bitChars 8 v.toNat ++ [' '] := by
    rw [List.takeWhile_append_of_pos (by simpa using forall_mem_bitChars bitChar_ne_hash 8 v.toNat)]
    rfl
  have hdigits : parseDigits 2 0 (bitChars 8 v.toNat) = some v.toNat := by
    rw [parseDigits_bitChars, Nat.zero_mul, Nat.zero_add, Nat.mod_eq_of_lt v.isLt]
  have hblank := forall_mem_bitChars (p := (isBlank · = false)) isBlank_bitChar 8 v.toNat
  have hline := parseImageLine_of_digits htext hblank hdigits (Nat.le_of_lt_succ v.isLt)
  rwa [BitVec.ofNat_toNat, BitVec.setWidth_eq] at hline

/-! ## The exit status -/

/-- Settles O56, outcome by outcome: the only status 0 that legal parameters leave is that of HALTED. -/
theorem exitStatusIsZeroExactlyForHalted : Obligations.ExitStatusIsZeroExactlyForHalted := by
  rintro p ⟨husage, hnoFile, hloadFail, hfatal, hdiffer⟩
  refine ⟨fun o => ?_, by simpa [exitStatus] using hdiffer, fun s => ?_⟩
  · cases o with
    | badInvocation => simp [exitStatus, husage]
    | missingFile => simp [exitStatus, hnoFile]
    | malformedImage => simp [exitStatus, hloadFail]
    | ended s => cases hrun : s.run <;> simp [exitStatus, hrun, hfatal]
  · cases hrun : s.run <;> simp [exitStatus, hrun]

end Sys2Proof.Machine
end
